-- ==== Sys2Proof/Word.lean ====
section
/-! DEFINITION. The byte of the two links, and the fixed-size table in which every numbered thing of the part is kept. -/

namespace Sys2Proof

/-- One byte of the host link or of the gallery bus. -/
abbrev Byte := BitVec 8

/-- `n` like things, numbered from 0 (00_scope.md, "Numbering"). -/
abbrev Table (α : Type) (n : Nat) := Vector α n

end Sys2Proof
end

