-- ==== Sys2Proof/Config.lean ====
section
/-! DEFINITION. What one implementation fixes: the free values, which the book leaves open. Nothing in Lean can evaluate them. -/

namespace Sys2Proof

/-- FREE VALUE (log entry 9): the tag byte of the `n`-th notice sent. R183 gives every frame a tag and says which tag a reply carries; it says none for a notice. -/
opaque Config.noticeTag (n : Nat) : Byte

/-- FREE VALUE (log entry 10): the kind byte of the REFUSED reply to a request whose kind is 128 or more. R183 gives "that request's kind plus 128", which does not fit a byte there. -/
opaque Config.highKindReply (kind : Byte) : Byte

end Sys2Proof
end

