-- ==== Sys2Proof/Syntax.lean ====
section
/-! DEFINITION. The commands of the part: one constructor of `Instr` per row of spec/opcode_table.json, with the operands its rule gives it. Operands of requests are the numbers that the request's frame carries (R183), in range or not: the meanings make the range checks. -/

namespace Sys2Proof

/-- An optional field as a request carries it (R183): a presence byte 0, or 1 followed by the field. `malformed` is a presence byte that is neither (log entry 12). -/
inductive OptField where
  | absent
  | present (value : Nat)
  | malformed
  deriving DecidableEq, Repr, Inhabited

/-- The nine bytes of a cue record (R183): offset (bytes 0-2), action (3), channel index (4), bytes 5-6 as one number, byte 7, byte 8. -/
structure RawCue where
  offset : Nat
  action : Nat
  index : Nat
  word : Nat
  byte7 : Nat
  byte8 : Nat
  deriving DecidableEq, Repr, Inhabited

/-- DEFINE-SHOW: the fields of R2 except the cues, in the order of R2 (R6). Names from a list are positions in it, yes and no are 1 and 0 (R183). -/
structure DefineShowReq where
  id : Nat
  label : List Nat
  cls : Nat
  channels : List Nat
  length : Nat
  plays : Nat
  preempt : Nat
  conflict : Nat
  primeMode : Nat
  primeTimeout : Nat
  rest : Nat
  leader : OptField
  tied : Nat
  autostart : Nat
  keepClosed : Nat
  deriving DecidableEq, Repr, Inhabited

/-- APPEND-CUES (R8). The count is the number of cue records carried. -/
structure AppendCuesReq where
  id : Nat
  cues : List RawCue
  deriving DecidableEq, Repr, Inhabited

/-- The fields SET-CHANNEL carries when its mapped flag is set (R22). -/
structure MappingReq where
  gallery : Nat
  kind : Nat
  node : Nat
  nodeChannel : Nat
  deriving DecidableEq, Repr, Inhabited

/-- SET-CHANNEL (R22). `mapped` is the flag as carried; `mapping` holds the fields that follow it, absent when the flag is 0. -/
structure SetChannelReq where
  channel : Nat
  mapped : Nat
  mapping : MappingReq
  deriving DecidableEq, Repr, Inhabited

/-- SET-LINE (R115): a line number and the eight settings of R110. -/
structure SetLineReq where
  line : Nat
  enabled : Nat
  activeLevel : Nat
  edge : Nat
  stableCount : Nat
  repeatDelay : Nat
  repeatInterval : Nat
  report : Nat
  wake : Nat
  deriving DecidableEq, Repr, Inhabited

/-- SET-ROUTE (R122): a source number and the five settings of R116. That the target can be left out, whatever the action, is the model's choice (log entry 11). -/
structure SetRouteReq where
  source : Nat
  enabled : Nat
  action : Nat
  target : OptField
  rearm : Nat
  report : Nat
  deriving DecidableEq, Repr, Inhabited

/-- DEFINE-SET (R125). -/
structure DefineSetReq where
  number : Nat
  shows : List Nat
  mode : Nat
  deriving DecidableEq, Repr, Inhabited

/-- SET-GALLERY (R137). -/
structure SetGalleryReq where
  gallery : Nat
  low : Nat
  high : Nat
  stuckCount : Nat
  deriving DecidableEq, Repr, Inhabited

/-- SET-LAW, a write (R144): a channel and the seven settings of R138. The curve is its points, each a level and a gain. -/
structure SetLawReq where
  channel : Nat
  gallery : Nat
  curve : List (Nat × Nat)
  interpolate : Nat
  upRate : Nat
  downRate : Nat
  jumpHigh : Nat
  jumpLow : Nat
  hysteresis : Nat
  deriving DecidableEq, Repr, Inhabited

/-- A wake set as carried (R154): the choice of SCHEDULE and of TRIGGER; LINK is always in it. -/
structure WakeReq where
  schedule : Nat
  trigger : Nat
  deriving DecidableEq, Repr, Inhabited

/-- The wake set of SET-ENTRY: absent, carried, or under a presence byte that is neither 0 nor 1. -/
inductive WakeField where
  | absent
  | present (wake : WakeReq)
  | malformed
  deriving DecidableEq, Repr, Inhabited

/-- SET-ENTRY (R157): an entry number and the fields of R154. The weekday mask is a selection of seven items. That the target and the wake set can each be left out, whatever the action, is the model's choice (log entry 11). -/
structure SetEntryReq where
  entry : Nat
  enabled : Nat
  mask : BitVec 7
  second : Nat
  action : Nat
  target : OptField
  wake : WakeField
  deriving DecidableEq, Repr, Inhabited

/-- A request the link controller can take: the requests of R183's table, READ-SHOW in its two forms (R11, R12) and SET-LAW in its two (R144). -/
inductive Request where
  | defineShow (r : DefineShowReq)
  | appendCues (r : AppendCuesReq)
  | eraseShow (id : Nat)
  | readShowHeader (id : Nat)
  | readShowPage (id start : Nat)
  | saveStore
  | setChannel (r : SetChannelReq)
  | getChannel (channel : Nat)
  | stopGallery (gallery : Nat)
  | startShow (id option : Nat)
  | stopShow (id : Nat)
  | release (id : Nat)
  | getSlot (slot : Nat)
  | setBus (timeout retries : Nat)
  | getNodes
  | setLine (r : SetLineReq)
  | setRoute (r : SetRouteReq)
  | clearPending (chosen : BitVec 64)
  | defineSet (r : DefineSetReq)
  | startSet (number : Nat)
  | getTriggers (table start : Nat)
  | clearLevelFlags (chosen : BitVec 48)
  | getLevels (start : Nat)
  | setGallery (r : SetGalleryReq)
  | setLaw (r : SetLawReq)
  | removeLaw (channel : Nat)
  | getLaw (channel : Nat)
  | setTimebase (source : Nat) (rate : OptField)
  | setTime (second weekday : Nat)
  | getTime
  | setEntry (r : SetEntryReq)
  | getEntry (entry : Nat)
  | closeHouse (wake : WakeReq)
  | openHouse
  | alarmAck
  | resume
  | setAlarm (showId : OptField) (ackTime : Nat)
  | getStatus
  | stopAll
  | reset
  deriving DecidableEq, Repr, Inhabited

/-- A block that takes a show tick at an event of its own (R148). -/
inductive TickTaker where
  | slot (k : Nat)
  | restTimers
  | rearmTimers
  | polling
  | escalation
  | dayClock
  deriving DecidableEq, Repr, Inhabited

/-- What a SHOW_TICK says of R148's order: whether a tick instant comes, the takers that take the tick first, in that order, and the takers that keep it for later (log entry 5). -/
structure TickOrder where
  instant : Bool
  first : List TickTaker
  late : List TickTaker
  deriving DecidableEq, Repr, Inhabited

/-- The commands of the part, one constructor per row of spec/opcode_table.json. A request row is the arrival of a whole, correct frame of that request with the tag `tag` (log entry 1). -/
inductive Instr where
  /-- POWER_UP (R18). -/
  | powerUp
  /-- RESET_LINE_PULSE (R19). -/
  | resetLinePulse
  /-- SETTINGS_LOAD_END (R18). -/
  | settingsLoadEnd
  /-- RECEIVE_BYTE (R173). -/
  | receiveByte (b : Byte)
  /-- FRAME_GAP (R173). -/
  | frameGap
  /-- TRANSMIT_FRAME_END (R177). -/
  | transmitFrameEnd
  /-- DEFINE_SHOW (R6). -/
  | defineShow (tag : Byte) (r : DefineShowReq)
  /-- APPEND_CUES (R8). -/
  | appendCues (tag : Byte) (r : AppendCuesReq)
  /-- ERASE_SHOW (R10). -/
  | eraseShow (tag : Byte) (id : Nat)
  /-- READ_SHOW_HEADER (R11). -/
  | readShowHeader (tag : Byte) (id : Nat)
  /-- READ_SHOW_PAGE (R12). -/
  | readShowPage (tag : Byte) (id start : Nat)
  /-- SAVE_STORE (R16). -/
  | saveStore (tag : Byte)
  /-- SAVE_WRITE_END (R16): the write ends, and `passes` is the outcome of the read-back check. -/
  | saveWriteEnd (passes : Bool)
  /-- SET_CHANNEL (R22). -/
  | setChannel (tag : Byte) (r : SetChannelReq)
  /-- GET_CHANNEL (R23). -/
  | getChannel (tag : Byte) (channel : Nat)
  /-- STOP_GALLERY (R41). -/
  | stopGallery (tag : Byte) (gallery : Nat)
  /-- START (R47): the option is 0 for plain and 1 for RESTART. -/
  | start (tag : Byte) (id option : Nat)
  /-- STOP (R68). -/
  | stop (tag : Byte) (id : Nat)
  /-- RELEASE (R61). -/
  | release (tag : Byte) (id : Nat)
  /-- GET_SLOT (R72). -/
  | getSlot (tag : Byte) (slot : Nat)
  /-- SET_BUS (R107). -/
  | setBus (tag : Byte) (timeout retries : Nat)
  /-- GET_NODES (R108). -/
  | getNodes (tag : Byte)
  /-- SET_LINE (R115). -/
  | setLine (tag : Byte) (r : SetLineReq)
  /-- SET_ROUTE (R122). -/
  | setRoute (tag : Byte) (r : SetRouteReq)
  /-- CLEAR_PENDING (R123). -/
  | clearPending (tag : Byte) (chosen : BitVec 64)
  /-- DEFINE_SET (R125). -/
  | defineSet (tag : Byte) (r : DefineSetReq)
  /-- START_SET (R127). -/
  | startSet (tag : Byte) (number : Nat)
  /-- GET_TRIGGERS (R128): table 0 LINES, 1 SOURCES, 2 SETS. -/
  | getTriggers (tag : Byte) (table start : Nat)
  /-- CLEAR_LEVEL_FLAGS (R135): HIGH, LOW and STUCK of gallery g are choices 3g, 3g + 1, 3g + 2 (R183). -/
  | clearLevelFlags (tag : Byte) (chosen : BitVec 48)
  /-- GET_LEVELS (R136). -/
  | getLevels (tag : Byte) (start : Nat)
  /-- SET_GALLERY (R137). -/
  | setGallery (tag : Byte) (r : SetGalleryReq)
  /-- SET_LAW, a write (R144). -/
  | setLaw (tag : Byte) (r : SetLawReq)
  /-- SET_LAW_REMOVAL (R144). -/
  | setLawRemoval (tag : Byte) (channel : Nat)
  /-- GET_LAW (R144). -/
  | getLaw (tag : Byte) (channel : Nat)
  /-- SET_TIMEBASE (R151): source 0 INTERNAL, 1 SYNC. -/
  | setTimebase (tag : Byte) (source : Nat) (rate : OptField)
  /-- SET_TIME (R153). -/
  | setTime (tag : Byte) (second weekday : Nat)
  /-- GET_TIME (R153). -/
  | getTime (tag : Byte)
  /-- SET_ENTRY (R157). -/
  | setEntry (tag : Byte) (r : SetEntryReq)
  /-- GET_ENTRY (R157). -/
  | getEntry (tag : Byte) (entry : Nat)
  /-- CLOSE (R161). -/
  | closeHouse (tag : Byte) (wake : WakeReq)
  /-- OPEN (R163). -/
  | openHouse (tag : Byte)
  /-- ALARM_ACK (R167). -/
  | alarmAck (tag : Byte)
  /-- RESUME (R169). -/
  | resume (tag : Byte)
  /-- SET_ALARM (R170): `showId` absent designates no show. -/
  | setAlarm (tag : Byte) (showId : OptField) (ackTime : Nat)
  /-- GET_STATUS (R179). -/
  | getStatus (tag : Byte)
  /-- STOP_ALL (R180). -/
  | stopAll (tag : Byte)
  /-- RESET (R181). -/
  | reset (tag : Byte)
  /-- SHOW_TICK (R147, R148; log entry 5): with `instant`, a tick instant hands a tick to every taker. Then the takers that have a tick in hand take it, each at an event of its own: those in `first`, in that order, then the others in the order the model lists them; those in `late` keep it, for a later SHOW_TICK without `instant`. -/
  | showTick (order : TickOrder)
  /-- PRIME_TIMEOUT (R51, R80) of a slot. -/
  | primeTimeout (slot : Nat)
  /-- HOLD_TIMEOUT (R59) of a slot. -/
  | holdTimeout (slot : Nat)
  /-- REST_TIMER_EXPIRY (R69) of a show. -/
  | restTimerExpiry (showId : Nat)
  /-- REARM_TIMER_EXPIRY (R118) of a trigger source. -/
  | rearmTimerExpiry (source : Nat)
  /-- POLLING_ROUND (R103). -/
  | pollingRound
  /-- ESCALATION (R167). -/
  | escalation
  /-- DAY_CLOCK_ADVANCE (R152). -/
  | dayClockAdvance
  /-- SYNC_PULSE (R149) at a time in nanoseconds since power-up (log entry 6). -/
  | syncPulse (time : Nat)
  /-- SYNC_LOST (R150). -/
  | syncLost
  /-- LINE_SAMPLE (R111): the raw level of the contact, high or low. -/
  | lineSample (line : Nat) (high : Bool)
  /-- REPEAT_EVENT (R113). -/
  | repeatEvent (line : Nat)
  /-- LEVEL_SAMPLE (R132). -/
  | levelSample (gallery reading : Nat)
  /-- ALARM_LINE_SAMPLE (R164): whether the contact is closed (ASSERTED). -/
  | alarmLineSample (asserted : Bool)
  /-- NODE_REPLY (R95): the bytes of the frame received on the gallery bus (R184). -/
  | nodeReply (bytes : List Byte)
  /-- REPLY_TIMEOUT (R95). -/
  | replyTimeout
  /-- HUSH_SENT (R100). -/
  | hushSent
  deriving DecidableEq, Repr, Inhabited

end Sys2Proof
end

