-- ==== Sys2Proof/WellFormed.lean ====
section
/-! DEFINITION. Which commands can be sent at all: every number of a request fits the bytes that R183 gives its field, a list's count fits its count byte and the body fits a frame, and an event names a slot, show, source, line, gallery or reading that exists. Ranges that a request's own rule checks are not here. -/

namespace Sys2Proof

/-- A number that one byte holds. -/
abbrev fits1 (n : Nat) : Bool := n < 256
/-- A number that two bytes hold. -/
abbrev fits2 (n : Nat) : Bool := n < 65536
/-- A number that three bytes hold. -/
abbrev fits3 (n : Nat) : Bool := n < 16777216

/-- An optional one-byte field fits its byte. -/
def OptField.fits1 : OptField → Bool
  | .absent => true
  | .present v => Sys2Proof.fits1 v
  | .malformed => true

/-- The nine bytes hold the cue record. -/
def RawCue.wellFormed (c : RawCue) : Bool :=
  fits3 c.offset && fits1 c.action && fits1 c.index && fits2 c.word && fits1 c.byte7 && fits1 c.byte8

/-- The frame holds the header: the label and the channel list together stay below the longest body of 250 bytes (R183). -/
def DefineShowReq.wellFormed (r : DefineShowReq) : Bool :=
  fits1 r.id && r.label.all fits1 && fits1 r.cls && r.channels.all fits1 && fits3 r.length && fits1 r.plays &&
  fits1 r.preempt && fits1 r.conflict && fits1 r.primeMode && fits1 r.primeTimeout && fits2 r.rest && r.leader.fits1 &&
  fits1 r.tied && fits1 r.autostart && fits1 r.keepClosed && decide (r.label.length + r.channels.length ≤ 230)

/-- The frame holds the cues: 2 plus 9 for each, at most 250 bytes (R183). -/
def AppendCuesReq.wellFormed (r : AppendCuesReq) : Bool :=
  fits1 r.id && r.cues.all RawCue.wellFormed && decide (2 + 9 * r.cues.length ≤ 250)

/-- The frame holds the entry. -/
def SetChannelReq.wellFormed (r : SetChannelReq) : Bool :=
  fits1 r.channel && fits1 r.mapped && fits1 r.mapping.gallery && fits1 r.mapping.kind && fits1 r.mapping.node && fits1 r.mapping.nodeChannel

/-- The frame holds the line's settings. -/
def SetLineReq.wellFormed (r : SetLineReq) : Bool :=
  fits1 r.line && fits1 r.enabled && fits1 r.activeLevel && fits1 r.edge && fits1 r.stableCount && fits2 r.repeatDelay &&
  fits2 r.repeatInterval && fits1 r.report && fits1 r.wake

/-- The frame holds the route. -/
def SetRouteReq.wellFormed (r : SetRouteReq) : Bool :=
  fits1 r.source && fits1 r.enabled && fits1 r.action && r.target.fits1 && fits2 r.rearm && fits1 r.report

/-- The frame holds the set. -/
def DefineSetReq.wellFormed (r : DefineSetReq) : Bool :=
  fits1 r.number && r.shows.all fits1 && fits1 r.mode && decide (r.shows.length ≤ 247)

/-- The frame holds the thresholds. -/
def SetGalleryReq.wellFormed (r : SetGalleryReq) : Bool :=
  fits1 r.gallery && fits2 r.low && fits2 r.high && fits1 r.stuckCount

/-- The frame holds the law, whose curve is five points (R138). -/
def SetLawReq.wellFormed (r : SetLawReq) : Bool :=
  fits1 r.channel && fits1 r.gallery && decide (r.curve.length = 5) && r.curve.all (fun q => fits2 q.1 && fits1 q.2) &&
  fits1 r.interpolate && fits1 r.upRate && fits1 r.downRate && fits1 r.jumpHigh && fits1 r.jumpLow && fits1 r.hysteresis

/-- The frame holds the wake set. -/
def WakeReq.wellFormed (r : WakeReq) : Bool := fits1 r.schedule && fits1 r.trigger

/-- The wake set of SET-ENTRY fits. -/
def WakeField.wellFormed : WakeField → Bool
  | .absent => true
  | .present w => w.wellFormed
  | .malformed => true

/-- The frame holds the entry. -/
def SetEntryReq.wellFormed (r : SetEntryReq) : Bool :=
  fits1 r.entry && fits1 r.enabled && fits3 r.second && fits1 r.action && r.target.fits1 && r.wake.wellFormed

/-- A taker that exists. -/
def TickTaker.wellFormed : TickTaker → Bool
  | .slot k => decide (k < 16)
  | .restTimers => true
  | .rearmTimers => true
  | .polling => true
  | .escalation => true
  | .dayClock => true

/-- A command that can be sent. -/
def Instr.wellFormed : Instr → Bool
  | .powerUp => true
  | .resetLinePulse => true
  | .settingsLoadEnd => true
  | .receiveByte _ => true
  | .frameGap => true
  | .transmitFrameEnd => true
  | .defineShow _ r => r.wellFormed
  | .appendCues _ r => r.wellFormed
  | .eraseShow _ id => fits1 id
  | .readShowHeader _ id => fits1 id
  | .readShowPage _ id index => fits1 id && fits2 index
  | .saveStore _ => true
  | .saveWriteEnd _ => true
  | .setChannel _ r => r.wellFormed
  | .getChannel _ channel => fits1 channel
  | .stopGallery _ gallery => fits1 gallery
  | .start _ id option => fits1 id && fits1 option
  | .stop _ id => fits1 id
  | .release _ id => fits1 id
  | .getSlot _ slot => fits1 slot
  | .setBus _ timeout retries => fits1 timeout && fits1 retries
  | .getNodes _ => true
  | .setLine _ r => r.wellFormed
  | .setRoute _ r => r.wellFormed
  | .clearPending _ _ => true
  | .defineSet _ r => r.wellFormed
  | .startSet _ number => fits1 number
  | .getTriggers _ table number => fits1 table && fits1 number
  | .clearLevelFlags _ _ => true
  | .getLevels _ gallery => fits1 gallery
  | .setGallery _ r => r.wellFormed
  | .setLaw _ r => r.wellFormed
  | .setLawRemoval _ channel => fits1 channel
  | .getLaw _ channel => fits1 channel
  | .setTimebase _ source rate => fits1 source && rate.fits1
  | .setTime _ second weekday => fits3 second && fits1 weekday
  | .getTime _ => true
  | .setEntry _ r => r.wellFormed
  | .getEntry _ entry => fits1 entry
  | .closeHouse _ wake => wake.wellFormed
  | .openHouse _ => true
  | .alarmAck _ => true
  | .resume _ => true
  | .setAlarm _ showId ackTime => showId.fits1 && fits1 ackTime
  | .getStatus _ => true
  | .stopAll _ => true
  | .reset _ => true
  | .showTick order => order.first.all TickTaker.wellFormed && order.late.all TickTaker.wellFormed
  | .primeTimeout slot => decide (slot < 16)
  | .holdTimeout slot => decide (slot < 16)
  | .restTimerExpiry showId => decide (showId < 64)
  | .rearmTimerExpiry source => decide (source < 64)
  | .pollingRound => true
  | .escalation => true
  | .dayClockAdvance => true
  | .syncPulse _ => true
  | .syncLost => true
  | .lineSample line _ => decide (line < 32)
  | .repeatEvent line => decide (line < 32)
  | .levelSample gallery reading => decide (gallery < 16) && decide (reading ≤ 1023)
  | .alarmLineSample _ => true
  | .nodeReply _ => true
  | .replyTimeout => true
  | .hushSent => true

end Sys2Proof
end

