-- ==== Sys2Proof/Decode.lean ====
section
/-! DEFINITION. The rows of spec/opcode_table.json give no bits, so no word spells a command. The bytes of the two links are read in Machine/Frames.lean. -/

namespace Sys2Proof

/-- No row of the table has bits: no word spells a command. -/
def decodeTableWord (_nbits _w : Nat) : Option Instr := none

end Sys2Proof
end

