-- ==== Sys2Proof/Machine/Records.lean ====
section
/-! DEFINITION. The records the blocks of the part hold and exchange: show programs, settings, stack entries, slots, transactions, notices and replies. Names follow the book's. -/

namespace Sys2Proof.Machine

/-! ### Names -/

/-- Class, lowest first (00_scope.md, Terms). -/
inductive ShowClass where
  | ambient | feature | notice | override
  deriving DecidableEq, Repr, Inhabited

/-- What a channel drives (R21). -/
inductive ChannelKind where
  | video | audio | light | effect
  deriving DecidableEq, Repr, Inhabited

/-- What a preempted show does (R2, R62 to R65). -/
inductive PreemptPolicy where
  | resume | restart | yield
  deriving DecidableEq, Repr, Inhabited

/-- What a show does when its claim fails (R2, R30). -/
inductive ConflictPolicy where
  | wait | refuse
  deriving DecidableEq, Repr, Inhabited

/-- Whether a channel missing at the end of priming ends the show (R2, R51). -/
inductive PrimeMode where
  | strict | lenient
  deriving DecidableEq, Repr, Inhabited

/-- Where a start came from (R43), with its number where it has one. -/
inductive Origin where
  | link
  | trigger (source : Nat)
  | schedule (entry : Nat)
  | showSet (number : Nat)
  | leader (slot : Nat)
  | autostart
  | alarm
  deriving DecidableEq, Repr, Inhabited

/-- The states of a slot that is not FREE (R44). -/
inductive SlotState where
  | pending | priming | running | held | suspended
  deriving DecidableEq, Repr, Inhabited

/-- Why a slot ended (R66). -/
inductive EndReason where
  | complete | stopped | yielded | leader | alarm | closed | notReady
  deriving DecidableEq, Repr, Inhabited

/-- The reasons of R176, in the order of their codes. -/
inductive Reason where
  | unknownKind | badLength | badField | noShow | showActive | storeFull | emptyShow | slotFull | already | resting
  | channelBusy | channelReferenced | alarm | notAcknowledged | notInAlarm | notHeld | wakePending | clockNotSet
  | badClass | busy | overtaken
  deriving DecidableEq, Repr, Inhabited

/-- The step at which a start was refused (R73). -/
inductive RefusalStep where
  | check | claim
  deriving DecidableEq, Repr, Inhabited

/-- A node's reason for a NAK (R87). -/
inductive NakReason where
  | noMedia | busy | badRequest
  deriving DecidableEq, Repr, Inhabited

/-- A node's presence (R101). -/
inductive Presence where
  | present | absent
  deriving DecidableEq, Repr, Inhabited

/-- The active level of a line (R110). -/
inductive ActiveLevel where
  | high | low
  deriving DecidableEq, Repr, Inhabited

/-- The edge setting of a line (R110). -/
inductive Edge where
  | rising | falling | both
  deriving DecidableEq, Repr, Inhabited

/-- A line's level as the part has taken it (R110). -/
inductive LineState where
  | active | inactive
  deriving DecidableEq, Repr, Inhabited

/-- The direction of a TRIGGER notice (R114). -/
inductive Direction where
  | press | release
  deriving DecidableEq, Repr, Inhabited

/-- The cause of a TRIGGER notice (R114, R120). -/
inductive TriggerCause where
  | change | repeated | note
  deriving DecidableEq, Repr, Inhabited

/-- A route's action (R116). -/
inductive RouteAction where
  | start | startRestart | startSet | stop | release | note
  deriving DecidableEq, Repr, Inhabited

/-- A show set's mode (R125). -/
inductive SetMode where
  | cycle | all
  deriving DecidableEq, Repr, Inhabited

/-- The variants of a LEVEL notice (R133). -/
inductive LevelVariant where
  | high | low | stuck | moving
  deriving DecidableEq, Repr, Inhabited

/-- The timebase source setting (R147). -/
inductive TimeSource where
  | internal | sync
  deriving DecidableEq, Repr, Inhabited

/-- The timebase state (R147). -/
inductive TimebaseState where
  | internal | locked | syncLost
  deriving DecidableEq, Repr, Inhabited

/-- A schedule entry's action (R154). -/
inductive EntryAction where
  | start | startSet | stop | openHouse | closeHouse
  deriving DecidableEq, Repr, Inhabited

/-- The house mode (R160). -/
inductive HouseMode where
  | opened | closed
  deriving DecidableEq, Repr, Inhabited

/-- The alarm state (R164). -/
inductive AlarmState where
  | normal | alarm | alarmHeld
  deriving DecidableEq, Repr, Inhabited

/-- The variants of an ALARM notice (section 10.4). -/
inductive AlarmVariant where
  | entered | held | reasserted | escalated | cleared
  deriving DecidableEq, Repr, Inhabited

/-- The causes of a FRAME-REJECT (R176). -/
inductive FrameCause where
  | check | length | gap
  deriving DecidableEq, Repr, Inhabited

/-- The causes of a CUE-LOST notice (R99); a refusal carries the node's reason. -/
inductive LostCause where
  | queueFull
  | refused (why : NakReason)
  | noAnswer
  deriving DecidableEq, Repr, Inhabited

/-- The two image areas (R15). -/
inductive Area where
  | a | b
  deriving DecidableEq, Repr, Inhabited

/-! ### Show programs (R2, R3) -/

/-- A cue's action with its fields, and its channel index where it has one (R3). -/
inductive CueAction where
  | play (index clip level : Nat) (loop : Bool)
  | scene (index scene fade : Nat)
  | level (index level fade : Nat)
  | pulse (index duration : Nat)
  | stop (index : Nat)
  | hold (timeout : Nat)
  | mark (number : Nat)
  deriving DecidableEq, Repr, Inhabited

/-- A stored cue record (R3). -/
structure Cue where
  offset : Nat
  action : CueAction
  deriving DecidableEq, Repr, Inhabited

/-- A show record without its place and its cues (R2). `plays` is the field repeat; an absent label is the empty list. -/
structure ShowHeader where
  label : List Nat
  cls : ShowClass
  channels : List Nat
  length : Nat
  plays : Nat
  preempt : PreemptPolicy
  conflict : ConflictPolicy
  primeMode : PrimeMode
  primeTimeout : Nat
  rest : Nat
  leader : Option Nat
  tied : Bool
  autostart : Bool
  keepClosed : Bool
  deriving DecidableEq, Repr, Inhabited

/-- A stored show: its header and its cue list (R2). -/
structure ShowRecord extends ShowHeader where
  cues : List Cue
  deriving DecidableEq, Repr, Inhabited

/-! ### Settings (R14) -/

/-- A mapped channel entry (R21). -/
structure ChannelEntry where
  gallery : Nat
  kind : ChannelKind
  node : Nat
  nodeChannel : Nat
  deriving DecidableEq, Repr, Inhabited

/-- The eight settings of a trigger line (R110). -/
structure LineSettings where
  enabled : Bool
  activeLevel : ActiveLevel
  edge : Edge
  stableCount : Nat
  repeatDelay : Nat
  repeatInterval : Nat
  report : Bool
  wake : Bool
  deriving DecidableEq, Repr, Inhabited

/-- The five settings of a trigger source (R116). -/
structure RouteSettings where
  enabled : Bool
  action : RouteAction
  target : Option Nat
  rearm : Nat
  report : Bool
  deriving DecidableEq, Repr, Inhabited

/-- The settings of a show set (R125). -/
structure SetSettings where
  shows : List Nat
  mode : SetMode
  deriving DecidableEq, Repr, Inhabited

/-- A wake set; LINK is always in it (R160). -/
structure WakeSet where
  schedule : Bool
  trigger : Bool
  deriving DecidableEq, Repr, Inhabited

/-- A schedule entry (R154). Bit w of the mask chooses weekday w. -/
structure ScheduleEntry where
  enabled : Bool
  mask : BitVec 7
  second : Nat
  action : EntryAction
  target : Option Nat
  wake : Option WakeSet
  deriving DecidableEq, Repr, Inhabited

/-- The settings of a gallery (R131). -/
structure GallerySettings where
  low : Nat
  high : Nat
  stuckCount : Nat
  deriving DecidableEq, Repr, Inhabited

/-- A point of a law's curve (R138). -/
structure CurvePoint where
  level : Nat
  gain : Nat
  deriving DecidableEq, Repr, Inhabited

/-- The settings of a level law (R138). -/
structure LawSettings where
  gallery : Nat
  curve : List CurvePoint
  interpolate : Bool
  upRate : Nat
  downRate : Nat
  jumpHigh : Bool
  jumpLow : Bool
  hysteresis : Nat
  deriving DecidableEq, Repr, Inhabited

/-- The settings: everything the settings image holds (R14). `rate` is the nominal rate of a SYNC source. -/
structure Settings where
  shows : Table (Option ShowRecord) 64
  channels : Table (Option ChannelEntry) 128
  lines : Table LineSettings 32
  routes : Table RouteSettings 64
  sets : Table (Option SetSettings) 16
  entries : Table ScheduleEntry 96
  galleries : Table GallerySettings 16
  laws : Table (Option LawSettings) 128
  source : TimeSource
  rate : Option Nat
  overrideShow : Option Nat
  ackTime : Nat
  replyTimeout : Nat
  retryCount : Nat
  deriving DecidableEq, Repr

/-- A line with no image loaded (R14). -/
def LineSettings.initial : LineSettings :=
  { enabled := false, activeLevel := .low, edge := .rising, stableCount := 4, repeatDelay := 0, repeatInterval := 0,
    report := false, wake := false }

/-- A route with no image loaded (R14, R116). -/
def RouteSettings.initial : RouteSettings :=
  { enabled := false, action := .note, target := none, rearm := 0, report := false }

/-- A schedule entry with no image loaded (R154). -/
def ScheduleEntry.initial : ScheduleEntry :=
  { enabled := false, mask := 0, second := 0, action := .openHouse, target := none, wake := none }

/-- The settings with no image loaded: the last column of R14. -/
def Settings.initial : Settings :=
  { shows := Vector.replicate 64 none
    channels := Vector.replicate 128 none
    lines := Vector.replicate 32 LineSettings.initial
    routes := Vector.replicate 64 RouteSettings.initial
    sets := Vector.replicate 16 none
    entries := Vector.replicate 96 ScheduleEntry.initial
    galleries := Vector.replicate 16 { low := 0, high := 1023, stuckCount := 0 }
    laws := Vector.replicate 128 none
    source := .internal
    rate := none
    overrideShow := none
    ackTime := 10
    replyTimeout := 4
    retryCount := 1 }

/-- A valid settings image (R15). An area that fails its check holds none. -/
structure Image where
  generation : Nat
  settings : Settings
  deriving DecidableEq, Repr

/-- A save in progress: the executing SAVE-STORE with the image it captured (R16). -/
structure SaveJob where
  tag : Byte
  area : Area
  image : Image
  deriving DecidableEq, Repr

/-! ### Stacks, slots and groups -/

/-- The forms of last state (R26). -/
inductive LastState where
  | play (clip level : Nat) (loop : Bool) (offset : Nat)
  | scene (scene fade : Nat)
  | level (level fade : Nat)
  deriving DecidableEq, Repr, Inhabited

/-- A stack entry (R24). `uid` is the model's name for the entry itself: "an entry removed and a later entry pushed are different entries" (R27; log entry 26). -/
structure StackEntry where
  cls : ShowClass
  slot : Nat
  showId : Nat
  last : Option LastState
  uid : Nat
  deriving DecidableEq, Repr, Inhabited

/-- A running rest timer or rearm timer: the show ticks left (log entry 27), and whether it was loaded since the last tick instant, so that it does not count the tick in hand (R148; log entry 33). -/
structure Timer where
  ticks : Nat
  fresh : Bool
  deriving DecidableEq, Repr, Inhabited

/-- The record of a play slot that is not FREE (R43). `repeats` is absent for endless. `began` is set while the slot has come into RUNNING or PRIMING since the last tick instant, so that it does not count the tick in hand in those states (R54, R148; log entry 33). -/
structure SlotRec where
  state : SlotState
  showId : Nat
  cls : ShowClass
  origin : Origin
  step : Nat
  pointer : Nat
  clock : Nat
  repeats : Option Nat
  deadline : Option Nat
  primeTimer : Option Nat
  heldWhenSuspended : Bool
  waitEntry : Option Nat
  late : Bool
  missing : List Nat
  skipped : Nat
  group : Option Nat
  began : Bool
  deriving DecidableEq, Repr, Inhabited

/-- A launch group (R76). `forming` is set until step 4 of R77; `leaderIn` says whether the leader is still a member (R82). -/
structure LaunchGroup where
  leader : Nat
  followers : List Nat
  forming : Bool
  leaderIn : Bool
  deriving DecidableEq, Repr, Inhabited

/-! ### Transactions and nodes -/

/-- The kinds of transaction with their payloads (R89). -/
inductive TxKind where
  | prepare (clip : Nat)
  | play (clip level : Nat) (loop resume : Bool) (start : Nat)
  | scene (scene fade : Nat)
  | level (level fade : Nat)
  | pulse (duration : Nat)
  | pause
  | stop
  | trim (gain : Nat)
  | poll
  | hush
  deriving DecidableEq, Repr, Inhabited

/-- A transaction (R88). `owner` is the identity of the owner entry. -/
structure Transaction where
  node : Nat
  nodeChannel : Option Nat
  channel : Option Nat
  kind : TxKind
  cls : ShowClass
  origin : Option Nat
  cueIndex : Option Nat
  owner : Option Nat
  toggle : Option Bool
  attempts : Nat
  deriving DecidableEq, Repr, Inhabited

/-- The transaction on the bus, with the reply timeout and retry count in force when it was put there (R95). -/
structure BusJob where
  tx : Transaction
  timeout : Nat
  retries : Nat
  deriving DecidableEq, Repr, Inhabited

/-- A node record (R101); the referenced flag is computed from the channel map. -/
structure NodeRecord where
  presence : Presence
  failures : Nat
  toggle : Bool
  lastNak : Option NakReason
  deriving DecidableEq, Repr, Inhabited

/-! ### Working records of the trigger unit and the level unit -/

/-- The working state of a line (R110). -/
structure LineWork where
  qualified : Option LineState
  stable : Nat
  countdown : Option Nat
  deriving DecidableEq, Repr, Inhabited

/-- The working state of a trigger source (R116). `direction` is that of the latest event that set the flag (log entry 14). -/
structure SourceWork where
  pending : Bool
  rearm : Option Timer
  direction : Option Direction
  deriving DecidableEq, Repr, Inhabited

/-- The working state of a gallery (R131). -/
structure GalleryWork where
  sample : Option Nat
  previous : Option Nat
  highFlag : Bool
  lowFlag : Bool
  stuckFlag : Bool
  equalRun : Nat
  runReported : Bool
  minimum : Nat
  maximum : Nat
  deriving DecidableEq, Repr, Inhabited

/-- The working state of a law (R138), and whether it was frozen at its latest reading (R144). -/
structure LawWork where
  target : Option Nat
  current : Option Nat
  lastSent : Option Nat
  frozen : Bool
  deriving DecidableEq, Repr, Inhabited

/-! ### Outcomes of starts -/

/-- What a START reply says (R47). -/
inductive StartOutcome where
  | claimed
  | pending (waitEntry : Nat)
  | restarted
  deriving DecidableEq, Repr, Inhabited

/-- The outcome of one start: accepted in a slot, or refused (R45 to R48). -/
inductive StartResult where
  | accepted (slot : Nat) (outcome : StartOutcome)
  | refused (why : Reason) (step : RefusalStep)
  deriving DecidableEq, Repr, Inhabited

/-! ### Notices (R178) -/

/-- Why the house opened (R162). -/
inductive OpenCause where
  | link
  | schedule (entry : Nat)
  | trigger (line : Nat)
  deriving DecidableEq, Repr, Inhabited

/-- The origin of a closing (R161). -/
inductive CloseOrigin where
  | link
  | schedule (entry : Nat)
  deriving DecidableEq, Repr, Inhabited

/-- The notices, with the fields their rules give them (section 10.4). -/
inductive Notice where
  | showStarted (slot showId : Nat) (origin : Origin) (missing : List Nat) (late : Bool)
  | showEnded (slot showId : Nat) (origin : Origin) (reason : EndReason) (step skipped : Nat)
  | showSuspended (slot showId by_ step : Nat) (held : Bool)
  | showResumed (slot showId : Nat) (late held reprimes : Bool)
  | showHeld (slot showId cue timeout : Nat)
  | mark (slot showId number cue clock : Nat)
  | cueLost (slot showId cue channel : Nat) (cause : LostCause)
  | startRefused (origin : Origin) (showId : Option Nat) (why : Reason) (step : RefusalStep)
  | trigger (source : Nat) (direction : Option Direction) (cause : TriggerCause) (event : Option Bool)
  | level (variant : LevelVariant) (gallery sample : Nat)
  | node (presence : Presence) (number : Nat)
  | sync (locked : Bool) (rate : Nat)
  | houseOpen (cause : OpenCause)
  | houseClosed (wake : WakeSet) (origin : CloseOrigin)
  | closeRefused (entry : Nat) (why : Reason)
  | alarm (variant : AlarmVariant)
  | storeLoaded (generation shows cues : Nat)
  | storeEmpty
  | storeSaved (good : Bool) (generation : Nat)
  | resetDone
  deriving DecidableEq, Repr, Inhabited

/-! ### Replies (R176) -/

/-- A line as GET-TRIGGERS shows it (R128). -/
structure LineView where
  settings : LineSettings
  qualified : Option LineState
  deriving DecidableEq, Repr, Inhabited

/-- A source as GET-TRIGGERS shows it; the rearm timer in whole seconds left (R128). -/
structure SourceView where
  settings : RouteSettings
  pending : Bool
  rearm : Option Nat
  deriving DecidableEq, Repr, Inhabited

/-- A defined set as GET-TRIGGERS shows it (R128). -/
structure SetView where
  settings : SetSettings
  pointer : Nat
  deriving DecidableEq, Repr, Inhabited

/-- A gallery as GET-LEVELS shows it: every field of R131 (R136). -/
structure GalleryView where
  settings : GallerySettings
  work : GalleryWork
  deriving DecidableEq, Repr, Inhabited

/-- A law as GET-LAW shows it (R144). -/
structure LawView where
  settings : LawSettings
  work : LawWork
  deriving DecidableEq, Repr, Inhabited

/-- A node as GET-NODES shows it (R108). -/
structure NodeView where
  record : NodeRecord
  referenced : Bool
  deriving DecidableEq, Repr, Inhabited

/-- The items of GET-STATUS (R179). The six slot counts stand in the order FREE to SUSPENDED. -/
structure StatusView where
  mode : HouseMode
  wake : WakeSet
  alarmState : AlarmState
  acknowledged : Bool
  alert : Bool
  source : TimeSource
  timebase : TimebaseState
  clockValid : Bool
  slotCounts : List Nat
  cuesUsed : Nat
  saving : Bool
  attention : Bool
  lost : Bool
  overrun : Bool
  waiting : Nat
  executing : Bool
  deriving DecidableEq, Repr, Inhabited

/-- What an OK reply carries, one form for each request (R176). `lawRemoved`, `law` and `entry` keep the number that their request named, which the reply's bytes do not hold (`putOk`; log entry 13 for `lawRemoved` and `entry`). -/
inductive OkBody where
  | showDefined (id removed used : Nat)
  | cuesAppended (id first count used : Nat)
  | showErased (id removed used : Nat)
  | header (id : Nat) (fields : ShowHeader) (count : Nat)
  | page (id start count : Nat) (cues : List Cue)
  | saved (good : Bool) (generation : Nat)
  | channelSet (channel : Nat) (entry : Option ChannelEntry)
  | channel (channel : Nat) (entry : Option ChannelEntry) (stack : List StackEntry)
  | galleryStopped (gallery ended : Nat)
  | started (slot : Nat) (outcome : StartOutcome)
  | stopped (slot : Option (Nat × SlotState))
  | released (slot cue : Nat)
  | freeSlot (slot : Nat)
  | slot (slot : Nat) (fields : SlotRec) (holdSeconds restSeconds : Option Nat)
  | bus (timeout retries : Nat)
  | nodes (table : List NodeView) (queued : Nat) (onBus : Bool)
  | line (number : Nat) (settings : LineSettings)
  | route (source : Nat) (settings : RouteSettings) (taken : Bool)
  | pendingCleared (count : Nat)
  | showSet (number : Nat) (settings : Option SetSettings)
  | setStarted (number : Nat) (mode : SetMode) (pointer : Nat) (outcomes : List (Nat × StartResult))
  | lines (start : Nat) (table : List LineView)
  | sources (start : Nat) (table : List SourceView)
  | sets (start : Nat) (table : List (Option SetView))
  | levelFlags (flags : List (Bool × Bool × Bool))
  | levels (start : Nat) (table : List GalleryView) (attention : Bool)
  | gallery (number : Nat) (settings : GallerySettings)
  | lawWritten (channel : Nat) (settings : LawSettings) (target current : Option Nat) (trimQueued : Bool)
  | lawRemoved (channel : Nat) (had : Bool)
  | law (channel : Nat) (view : Option LawView)
  | timebase (source : TimeSource) (rate : Option Nat) (state : TimebaseState)
  | clock (second weekday : Nat)
  | entry (number : Nat) (settings : ScheduleEntry)
  | houseClosed (wake : WakeSet) (ended : Nat)
  | houseOpen (mode : HouseMode) (carriedOut : Bool)
  | acknowledged (state : AlarmState) (released : Bool)
  | resumed (autostarts : Nat)
  | alarmSettings (showId : Option Nat) (ackTime : Nat)
  | status (view : StatusView)
  | stoppedAll (ended : Nat)
  | resetTaken
  deriving DecidableEq, Repr, Inhabited

/-- A reply (R176): OK and REFUSED with the request's tag and kind, or FRAME-REJECT. -/
inductive Reply where
  | ok (tag kind : Byte) (body : OkBody)
  | refused (tag kind : Byte) (why : Reason)
  | frameReject (cause : FrameCause)
  deriving DecidableEq, Repr, Inhabited

/-- A frame the transmitter is sending (R177). A notice carries lost-before-this (R178) and its tag byte (log entry 9). -/
inductive TxFrame where
  | reply (r : Reply)
  | notice (n : Notice) (lostBefore : Bool) (tag : Byte)
  deriving DecidableEq, Repr

/-! ### Requests as they arrive -/

/-- What an accepted frame asks for: a request, or the reason the arrival checks of R174 give it. `badForm` is a SET-LAW whose form byte is neither 0 nor 1 (log entry 12). -/
inductive Arrived where
  | unknownKind
  | badLength
  | badForm
  | request (r : Request)
  deriving DecidableEq, Repr, Inhabited

/-- A request as the request queue keeps it: tag, kind and content (R175). -/
structure Queued where
  tag : Byte
  kind : Byte
  content : Arrived
  deriving DecidableEq, Repr, Inhabited

/-- The receive assembler (R173). In BODY it holds the length byte and the bytes collected after it, oldest first. -/
inductive Assembler where
  | hunting
  | length
  | body (len : Nat) (got : List Byte)
  deriving DecidableEq, Repr, Inhabited

end Sys2Proof.Machine
end

