-- ==== Sys2Proof/Machine/Blocks.lean ====
section
/-! DEFINITION. The blocks of the part, each with its own state (00_scope.md), and their power-up values. -/

namespace Sys2Proof.Machine

/-- The cue store: the settings, the two image areas and their note, the save in progress, and whether the settings load runs (R14 to R18). -/
structure CueStore where
  settings : Settings
  areaA : Option Image
  areaB : Option Image
  note : Option Area
  save : Option SaveJob
  loading : Bool
  deriving DecidableEq, Repr

/-- The channel map: owner stacks (top first), the wait order and its counter (R24, R31). -/
structure ChannelMap where
  owners : Table (List StackEntry) 128
  waitOrder : List Nat
  waitCounter : Nat
  nextUid : Nat
  deriving DecidableEq, Repr

/-- What is foreseen of an action that ends slots (R82; log entry 18): nothing between actions; in its trial run, the endings so far; in the action itself, the endings still ahead, in order. -/
inductive Foresight
  | idle
  | recording (ended : List Nat)
  | known (ahead : List Nat)
  deriving DecidableEq, Repr

/-- The show runner with the launch coordinator: slots (none for FREE), rest timers, launch groups (R43, R69, R76); and `foresight`, the model's own, idle between actions: the slots that end in the action at hand (R82; log entry 18). -/
structure ShowRunner where
  slots : Table (Option SlotRec) 16
  rest : Table (Option Timer) 64
  groups : List LaunchGroup
  foresight : Foresight
  deriving DecidableEq, Repr

/-- The gallery bus controller: queue, transaction on the bus, node table (node n at index n - 1), ticks since the last polling round (R90, R94, R101, R103). -/
structure BusController where
  queue : List Transaction
  job : Option BusJob
  nodes : Table NodeRecord 32
  pollTicks : Nat
  deriving DecidableEq, Repr

/-- The trigger unit's working state (R110, R116, R125). -/
structure TriggerUnit where
  lines : Table LineWork 32
  sources : Table SourceWork 64
  pointers : Table Nat 16
  deriving DecidableEq, Repr

/-- The level unit's working state (R131, R138). -/
structure LevelUnit where
  galleries : Table GalleryWork 16
  laws : Table LawWork 128
  deriving DecidableEq, Repr

/-- The pulse grid of a LOCKED timebase (R147): the number of the latest pulse received, the time and number of the latest good pulse, the last good interval, and the index of the next instant. Times are nanoseconds (log entry 6). -/
structure PulseGrid where
  latest : Nat
  goodTime : Nat
  goodNumber : Nat
  interval : Nat
  nextIndex : Nat
  deriving DecidableEq, Repr, Inhabited

/-- The timebase and the day clock (R147, R152). `lastTick` is the instant of the last tick in hundredths of a nanosecond since power-up (log entry 6); `inHand` the takers that have not taken it yet (R148; log entry 5). -/
structure TimeUnit where
  state : TimebaseState
  goodCount : Nat
  lastPulse : Option Nat
  grid : Option PulseGrid
  lastTick : Int
  inHand : List TickTaker
  second : Nat
  weekday : Nat
  fraction : Nat
  valid : Bool
  deriving DecidableEq, Repr

/-- The house and alarm unit (R160, R164). The escalation timer counts show ticks (log entries 27 and 33). `runLevel` is the level of the samples counted by `run`. -/
structure HouseUnit where
  mode : HouseMode
  wake : WakeSet
  alarmState : AlarmState
  acknowledged : Bool
  escalation : Option Timer
  alert : Bool
  qualified : Option Bool
  run : Nat
  runLevel : Bool
  deriving DecidableEq, Repr

/-- The link controller (R173 to R178). `freeCount` counts the draws of the notice tag's free value (log entry 34). -/
structure LinkController where
  assembler : Assembler
  requests : List Queued
  replies : List Reply
  notices : List Notice
  transmitting : Option TxFrame
  lost : Bool
  overrun : Bool
  freeCount : Nat
  deriving DecidableEq, Repr

/-- The ten blocks of the part; the launch coordinator is in the show runner. -/
structure Blocks where
  store : CueStore
  map : ChannelMap
  runner : ShowRunner
  bus : BusController
  trigger : TriggerUnit
  level : LevelUnit
  time : TimeUnit
  house : HouseUnit
  link : LinkController
  deriving DecidableEq, Repr

/-- R42. -/
def ChannelMap.initial : ChannelMap :=
  { owners := Vector.replicate 128 [], waitOrder := [], waitCounter := 0, nextUid := 0 }

/-- R74, R86. -/
def ShowRunner.initial : ShowRunner :=
  { slots := Vector.replicate 16 none, rest := Vector.replicate 64 none, groups := [], foresight := .idle }

/-- A node at reset (R109). -/
def NodeRecord.initial : NodeRecord := { presence := .present, failures := 0, toggle := false, lastNak := none }

/-- R109. -/
def BusController.initial : BusController :=
  { queue := [], job := none, nodes := Vector.replicate 32 NodeRecord.initial, pollTicks := 0 }

/-- A line's working state when it is disabled or not yet sampled (R111, R130). -/
def LineWork.initial : LineWork := { qualified := none, stable := 0, countdown := none }

/-- A source's working state at reset (R130). -/
def SourceWork.initial : SourceWork := { pending := false, rearm := none, direction := none }

/-- R130. -/
def TriggerUnit.initial : TriggerUnit :=
  { lines := Vector.replicate 32 LineWork.initial, sources := Vector.replicate 64 SourceWork.initial,
    pointers := Vector.replicate 16 0 }

/-- A gallery's working state at power-up (R146). -/
def GalleryWork.initial : GalleryWork :=
  { sample := none, previous := none, highFlag := false, lowFlag := false, stuckFlag := false, equalRun := 0,
    runReported := false, minimum := 1023, maximum := 0 }

/-- A law's working state at power-up (R146). -/
def LawWork.initial : LawWork := { target := none, current := none, lastSent := none, frozen := false }

/-- R146. -/
def LevelUnit.initial : LevelUnit :=
  { galleries := Vector.replicate 16 GalleryWork.initial, laws := Vector.replicate 128 LawWork.initial }

/-- R159, power-up; INTERNAL while the load runs (log entry 23). -/
def TimeUnit.initial : TimeUnit :=
  { state := .internal, goodCount := 0, lastPulse := none, grid := none, lastTick := 0, inHand := [], second := 0, weekday := 0,
    fraction := 0, valid := false }

/-- R172. -/
def HouseUnit.initial : HouseUnit :=
  { mode := .closed, wake := { schedule := true, trigger := false }, alarmState := .normal, acknowledged := false,
    escalation := none, alert := false, qualified := none, run := 0, runLevel := false }

/-- R182; the draws of free values go on from `freeCount`. -/
def LinkController.initial (freeCount : Nat) : LinkController :=
  { assembler := .hunting, requests := [], replies := [], notices := [], transmitting := none, lost := false,
    overrun := false, freeCount := freeCount }

/-- The part as a settings load begins (R18, R19): non-volatile memory is as given, the rest is at its power-up state, and no settings are loaded yet (log entry 23). -/
def Blocks.loadBegins (areaA areaB : Option Image) (note : Option Area) (freeCount : Nat) : Blocks :=
  { store := { settings := Settings.initial, areaA := areaA, areaB := areaB, note := note, save := none, loading := true }
    map := ChannelMap.initial
    runner := ShowRunner.initial
    bus := BusController.initial
    trigger := TriggerUnit.initial
    level := LevelUnit.initial
    time := TimeUnit.initial
    house := HouseUnit.initial
    link := LinkController.initial freeCount }

end Sys2Proof.Machine
end

