-- ==== Sys2Proof/Machine/State.lean ====
section
/-! DEFINITION. The state of the part with the queue of waiting commands, the state after reset, and the reasons a step can stop: none. -/

namespace Sys2Proof.Machine

/-- The part has no fault: every refusal is a reply (R176) and every loss a notice or a count (R71, R93), so no command stops the machine and no constructor stands here. -/
inductive Fault where
  deriving DecidableEq, Repr

/-- Why a command has no meaning. -/
inductive Refusal where
  /-- Raised by `exec` alone, for a command that has no meaning yet. Safe: the machine stops. No arm of `exec` raises it now. -/
  | notModelled (mnemonic : String)
  deriving DecidableEq, Repr

/-- The part, and the commands that wait for it, first in, first out. -/
structure State where
  part : Blocks
  pending : List Instr
  deriving DecidableEq, Repr

/-- Right after power is first applied: a settings load has begun (R18), and both image areas hold no valid image (log entry 2). -/
def State.reset : State :=
  { part := Blocks.loadBegins none none none 0, pending := [] }

end Sys2Proof.Machine
end

