-- ==== Sys2Proof/Machine/Ops.lean ====
section
/-! DEFINITION. The named operations that every block uses: tables, accessors of slots, shows, channels, nodes and stacks, putting notices and replies into their lists, the check value, and what a step does around a command's effect. -/

namespace Sys2Proof.Machine

/-! ### Tables -/

/-- The `i`-th thing of a table. Every caller keeps `i` below `n`; beyond it stands the type's default. -/
def tget {α : Type} {n : Nat} [Inhabited α] (t : Table α n) (i : Nat) : α := t.toList.getD i default

/-- The table with its `i`-th thing replaced; unchanged when there is none. -/
def tset {α : Type} {n : Nat} (t : Table α n) (i : Nat) (v : α) : Table α n := t.setIfInBounds i v

/-- Every thing of the table changed by `f`. -/
def tmap {α β : Type} {n : Nat} (f : α → β) (t : Table α n) : Table β n := ⟨(t.toList.map f).toArray, by simp⟩

/-- The table whose `i`-th thing is `f i`. -/
def tbuild {α : Type} (n : Nat) (f : Nat → α) : Table α n := ⟨((List.range n).map f).toArray, by simp⟩

/-- Up to `count` numbers from `start` upward, below `bound`. -/
def numbersFrom (start count bound : Nat) : List Nat := (List.range bound).filter (fun i => decide (start ≤ i) && decide (i < start + count))

/-! ### Classes -/

/-- Precedence of classes, lowest first. -/
def ShowClass.rank : ShowClass → Nat
  | .ambient => 0
  | .feature => 1
  | .notice => 2
  | .override => 3

/-- One class is lower than another. -/
def ShowClass.below (a b : ShowClass) : Bool := decide (a.rank < b.rank)

/-! ### Shows, slots, channels, nodes and stacks -/

/-- The show of an id, if it is defined; an id above 63 names none. -/
def showOf (p : Blocks) (id : Nat) : Option ShowRecord := tget p.store.settings.shows id

/-- The record of a slot; none for a FREE slot. -/
def slotOf (p : Blocks) (k : Nat) : Option SlotRec := tget p.runner.slots k

/-- The record of a slot with the show it holds. -/
def slotShow (p : Blocks) (k : Nat) : Option (SlotRec × ShowRecord) :=
  match slotOf p k with
  | none => none
  | some r =>
    match showOf p r.showId with
    | none => none
    | some sh => some (r, sh)

/-- Write a slot's record. -/
def setSlot (k : Nat) (r : Option SlotRec) (p : Blocks) : Blocks :=
  { p with runner := { p.runner with slots := tset p.runner.slots k r } }

/-- Change the record of a slot that is not FREE. -/
def modSlot (k : Nat) (f : SlotRec → SlotRec) (p : Blocks) : Blocks :=
  match slotOf p k with
  | none => p
  | some r => setSlot k (some (f r)) p

/-- The slot numbers. -/
def slotNumbers : List Nat := List.range 16

/-- The slot that holds a show: no two hold the same (R45). -/
def slotHolding (p : Blocks) (id : Nat) : Option Nat :=
  slotNumbers.find? (fun k => match slotOf p k with
    | none => false
    | some r => decide (r.showId = id))

/-- The lowest-numbered FREE slot (R46). -/
def lowestFree (p : Blocks) : Option Nat := slotNumbers.find? (fun k => (slotOf p k).isNone)

/-- The slots that are not FREE, in ascending order. -/
def busySlots (p : Blocks) : List Nat := slotNumbers.filter (fun k => (slotOf p k).isSome)

/-- A show is active while a slot that is not FREE holds it (R1). -/
def showActive (p : Blocks) (id : Nat) : Bool := (slotHolding p id).isSome

/-- A channel's entry, if it is mapped. -/
def channelEntry (p : Blocks) (ch : Nat) : Option ChannelEntry := tget p.store.settings.channels ch

/-- A channel's owner stack, top first. -/
def ownersOf (p : Blocks) (ch : Nat) : List StackEntry := tget p.map.owners ch

/-- Write a channel's owner stack. -/
def setOwners (ch : Nat) (entries : List StackEntry) (p : Blocks) : Blocks :=
  { p with map := { p.map with owners := tset p.map.owners ch entries } }

/-- The active owner of a channel: the top entry. -/
def topEntry (p : Blocks) (ch : Nat) : Option StackEntry := (ownersOf p ch).head?

/-- A node's record; nodes are numbered from 1. -/
def nodeRecord (p : Blocks) (n : Nat) : NodeRecord :=
  if n = 0 then NodeRecord.initial else (p.bus.nodes.toList.getD (n - 1) NodeRecord.initial)

/-- Write a node's record; node 0 has none. -/
def setNode (n : Nat) (r : NodeRecord) (p : Blocks) : Blocks :=
  if n = 0 then p else { p with bus := { p.bus with nodes := tset p.bus.nodes (n - 1) r } }

/-- Whether the part believes a node is answering (R101). -/
def nodePresent (p : Blocks) (n : Nat) : Bool := decide ((nodeRecord p n).presence = .present)

/-- The node numbers. -/
def nodeNumbers : List Nat := (List.range 32).map (· + 1)

/-- The channel numbers. -/
def channelNumbers : List Nat := List.range 128

/-- Replace the settings. -/
def setSettings (st : Settings) (p : Blocks) : Blocks := { p with store := { p.store with settings := st } }

/-- A slot's entry on a channel. -/
def entryOn (p : Blocks) (ch k : Nat) : Option StackEntry := (ownersOf p ch).find? (fun e => decide (e.slot = k))

/-- A slot is the top entry on every channel of its show's list (R25, R34). -/
def topEverywhere (p : Blocks) (k : Nat) : Bool :=
  match slotShow p k with
  | none => false
  | some (_, sh) => sh.channels.all (fun ch => match topEntry p ch with
    | none => false
    | some e => decide (e.slot = k))

/-! ### Notices and replies -/

/-- Put a notice into the notice queue; with 32 there it is dropped and the lost flag set (R178). -/
def putNotice (n : Notice) (p : Blocks) : Blocks :=
  if p.link.notices.length < 32 then { p with link := { p.link with notices := p.link.notices ++ [n] } }
  else { p with link := { p.link with lost := true } }

/-- Make a reply: it joins the youngest end of the reply list (R176). -/
def putReply (r : Reply) (p : Blocks) : Blocks :=
  { p with link := { p.link with replies := p.link.replies ++ [r] } }

/-! ### The check value (R183) -/

/-- One bit of the CRC-16 with polynomial x^16 + x^12 + x^5 + 1, most significant bit first. -/
def crcBit (c : BitVec 16) : BitVec 16 := if c.msb then (c <<< 1) ^^^ 0x1021#16 else c <<< 1

/-- One byte of the CRC-16. -/
def crcByte (c : BitVec 16) (b : Byte) : BitVec 16 :=
  crcBit (crcBit (crcBit (crcBit (crcBit (crcBit (crcBit (crcBit (c ^^^ (b.setWidth 16 <<< 8)))))))))

/-- The check value over bytes: initial value all ones, no reflection, no final inversion (R183). -/
def crc16 (bytes : List Byte) : BitVec 16 := bytes.foldl crcByte 0xFFFF#16

/-- The check value as two bytes, most significant first. -/
def crcBytes (bytes : List Byte) : List Byte := [((crc16 bytes) >>> 8).setWidth 8, (crc16 bytes).setWidth 8]

/-! ### Times -/

/-- Whole seconds left of a timer kept in show ticks: it falls by one for every 100 ticks since it was loaded (R69, R118, R167), and a part second counts as one (R72). -/
def wholeSeconds (ticks : Nat) : Nat := (ticks + 99) / 100

/-- A count of show ticks for `s` seconds; none for 0 (R58). -/
def ticksOf (s : Nat) : Option Nat := if s = 0 then none else some (s * 100)

/-- A rest or rearm timer of `s` seconds as it is loaded; 0 leaves it idle (R69, R118). -/
def loadTimer (s : Nat) : Option Timer := if s = 0 then none else some { ticks := s * 100, fresh := true }

/-- A rest or rearm timer after it takes a show tick; it becomes idle when it reaches 0 (R69, R118). -/
def tickTimer : Option Timer → Option Timer
  | none => none
  | some t => if t.fresh then some t else if t.ticks ≤ 1 then none else some { t with ticks := t.ticks - 1 }

/-- A timer at a tick instant: it counts the ticks from this one on. -/
def ageTimer : Option Timer → Option Timer
  | none => none
  | some t => some { t with fresh := false }

/-- The whole seconds left of a timer; none while it is idle. -/
def timerSeconds : Option Timer → Option Nat
  | none => none
  | some t => some (wholeSeconds t.ticks)

end Sys2Proof.Machine
end

