-- ==== Sys2Proof/Machine/Flags.lean ====
section
/-! DEFINITION. The values the rules compute from the state and do not store: the count of cues used, the attention summary, the referenced flags, whether a law is frozen, the slot counts, and whether a wake line is pending. -/

namespace Sys2Proof.Machine

/-- The number of cues of a place in the store. -/
def cueCountOf : Option ShowRecord → Nat
  | none => 0
  | some sh => sh.cues.length

/-- The count of cues used: the cue records of all defined shows (R1). -/
def cuesUsed (st : Settings) : Nat := (st.shows.toList.map cueCountOf).sum

/-- The number of shows defined (R18). -/
def showsDefined (st : Settings) : Nat := (st.shows.toList.filter Option.isSome).length

/-- A stored show lists the channel, cues or none (R4, R22). -/
def channelListed (st : Settings) (ch : Nat) : Bool :=
  st.shows.toList.any (fun o => match o with
    | none => false
    | some sh => sh.channels.contains ch)

/-- A node is referenced while a mapped channel names it (R101). -/
def nodeReferenced (st : Settings) (n : Nat) : Bool :=
  st.channels.toList.any (fun o => match o with
    | none => false
    | some e => decide (e.node = n))

/-- The attention summary: some gallery has a flag set (R135). -/
def attention (p : Blocks) : Bool :=
  p.level.galleries.toList.any (fun g => g.highFlag || g.lowFlag || g.stuckFlag)

/-- The alarm state is ALARM or ALARM-HELD. -/
def underAlarm (p : Blocks) : Bool := decide (p.house.alarmState ≠ .normal)

/-- The conditions under which a law of source gallery `g` is frozen at a reading (R141). -/
def lawFrozen (p : Blocks) (g : Nat) : Bool :=
  let w : GalleryWork := tget p.level.galleries g
  let st : GallerySettings := tget p.store.settings.galleries g
  (w.stuckFlag && decide (st.stuckCount ≠ 0) && decide (st.stuckCount ≤ w.equalRun)) || underAlarm p

/-- Some line has wake set and its source's pending flag set (R119). -/
def wakePending (p : Blocks) : Bool :=
  (List.range 32).any (fun l => (tget p.store.settings.lines l).wake && (tget p.trigger.sources l).pending)

/-- How many slots are in a state. -/
def slotsIn (p : Blocks) (st : SlotState) : Nat :=
  (slotNumbers.filter (fun k => match slotOf p k with
    | none => false
    | some r => decide (r.state = st))).length

/-- The six slot counts of GET-STATUS, FREE to SUSPENDED (R179). -/
def slotCounts (p : Blocks) : List Nat :=
  [(slotNumbers.filter (fun k => (slotOf p k).isNone)).length, slotsIn p .pending, slotsIn p .priming, slotsIn p .running,
    slotsIn p .held, slotsIn p .suspended]

/-- The shows that name `id` as their leader, in ascending order (R75). -/
def followersOf (st : Settings) (id : Nat) : List Nat :=
  (List.range 64).filter (fun f => match (tget st.shows f : Option ShowRecord) with
    | none => false
    | some sh => decide (sh.leader = some id))

end Sys2Proof.Machine
end

