-- ==== Sys2Proof/Machine/Bus.lean ====
section
/-! DEFINITION. The transaction queue: order, entry, displacement, the losses it reports, taking the head to the bus, emptying and withdrawal (R90 to R94, R99, R100, R105), and the polling of nodes (R103, R109). -/

namespace Sys2Proof.Machine

/-- Count a lost cue of a slot, up to 65,535; a report for a FREE slot is disregarded (R71). -/
def addSkipped (k : Nat) (p : Blocks) : Blocks :=
  modSlot k (fun r => { r with skipped := if r.skipped < 65535 then r.skipped + 1 else 65535 }) p

/-- The loss of a cue of a slot that is not FREE: CUE-LOST, then the count (R93, R97, R98, R99). Nothing for a FREE slot or a transaction without a cue index. -/
def reportCueLost (t : Transaction) (cause : LostCause) (p : Blocks) : Blocks :=
  match t.origin, t.cueIndex with
  | some k, some ci =>
    match slotOf p k with
    | none => p
    | some r => addSkipped k (putNotice (.cueLost k r.showId ci (t.channel.getD 0) cause) p)
  | _, _ => p

/-- POLL and HUSH may go to an ABSENT node (R91). -/
def TxKind.reachesAbsent : TxKind → Bool
  | .poll => true
  | .hush => true
  | _ => false

/-- The new transaction's place: behind every one of its own and every higher class, ahead of every lower (R90). -/
def insertTx (t : Transaction) : List Transaction → List Transaction
  | [] => [t]
  | x :: xs => if x.cls.below t.cls then t :: x :: xs else x :: insertTx t xs

/-- The lowest class present in a queue (R92). -/
def lowestClass : List Transaction → Option ShowClass
  | [] => none
  | x :: xs =>
    match lowestClass xs with
    | none => some x.cls
    | some c => if x.cls.below c then some x.cls else some c

/-- The youngest transaction of a class: the last one in the queue. -/
def youngestOf (c : ShowClass) (q : List Transaction) : Option Transaction := q.reverse.find? (fun x => decide (x.cls = c))

/-- The queue without its youngest transaction of a class. -/
def dropYoungest (c : ShowClass) (q : List Transaction) : List Transaction :=
  (q.reverse.eraseP (fun x => decide (x.cls = c))).reverse

/-- Entry to the queue, with displacement or drop when it holds 64 (R90, R92, R93). -/
def enterQueue (t : Transaction) (p : Blocks) : Blocks :=
  if p.bus.queue.length < 64 then { p with bus := { p.bus with queue := insertTx t p.bus.queue } }
  else
    match lowestClass p.bus.queue with
    | none => p
    | some c =>
      if c.below t.cls then
        let gone := youngestOf c p.bus.queue
        let p1 : Blocks := { p with bus := { p.bus with queue := insertTx t (dropYoungest c p.bus.queue) } }
        match gone with
        | none => p1
        | some g => reportCueLost g .queueFull p1
      else reportCueLost t .queueFull p

/-- When the bus is free, the queue head goes to it for its first attempt, with its node's toggle; HUSH carries none (R94, R95). Nothing is taken while the settings load (R18). -/
def takeHead (p : Blocks) : Blocks :=
  match p.bus.job with
  | some _ => p
  | none =>
    if p.store.loading then p
    else
      match p.bus.queue with
      | [] => p
      | t :: rest =>
        let toggle := if t.kind = .hush then none else some (nodeRecord p t.node).toggle
        { p with bus := { p.bus with
            queue := rest
            job := some { tx := { t with toggle := toggle, attempts := 1 }, timeout := p.store.settings.replyTimeout,
                          retries := p.store.settings.retryCount } } }

/-- Offer a transaction: refused for an ABSENT node (R91), else it enters the queue (R90, R92), and a free bus takes the head (R94). -/
def offer (t : Transaction) (p : Blocks) : Blocks :=
  if !t.kind.reachesAbsent && !nodePresent p t.node then
    match t.origin, t.cueIndex with
    | some k, some _ => addSkipped k p
    | _, _ => p
  else takeHead (enterQueue t p)

/-- Offer a transaction for a channel, built from the map as it stands (R38, R57, R88). An unmapped channel has none. -/
def offerChannel (ch : Nat) (kind : TxKind) (cls : ShowClass) (origin cueIndex owner : Option Nat) (p : Blocks) : Blocks :=
  match channelEntry p ch with
  | none => p
  | some e =>
    offer { node := e.node, nodeChannel := some e.nodeChannel, channel := some ch, kind := kind, cls := cls, origin := origin,
            cueIndex := cueIndex, owner := owner, toggle := none, attempts := 0 } p

/-- Offer a STOP or PAUSE with no origin slot for each channel of a list, in order. -/
def offerEach (kind : TxKind) (cls : ShowClass) (chs : List Nat) (p : Blocks) : Blocks :=
  chs.foldl (fun q ch => offerChannel ch kind cls none none none q) p

/-- A HUSH (R100). -/
def hushTx : Transaction :=
  { node := 0, nodeChannel := none, channel := none, kind := .hush, cls := .override, origin := none, cueIndex := none,
    owner := none, toggle := none, attempts := 0 }

/-- A POLL of a node (R103, R109). -/
def pollTx (n : Nat) : Transaction :=
  { node := n, nodeChannel := none, channel := none, kind := .poll, cls := .ambient, origin := none, cueIndex := none,
    owner := none, toggle := none, attempts := 0 }

/-- Empty the transaction queue, with no report (R105). -/
def emptyQueue (p : Blocks) : Blocks := { p with bus := { p.bus with queue := [] } }

/-- Withdraw every transaction that carries an origin slot, with no report (R105, STOP-ALL). -/
def withdrawSlots (p : Blocks) : Blocks :=
  { p with bus := { p.bus with queue := p.bus.queue.filter (fun t => t.origin.isNone) } }

/-- A transaction on the bus or in the queue meets `f`. -/
def anyOutstanding (p : Blocks) (f : Transaction → Bool) : Bool :=
  p.bus.queue.any f || (match p.bus.job with
    | none => false
    | some j => f j.tx)

/-- A POLL for the node is in the queue or on the bus (R103). -/
def pollOutstanding (p : Blocks) (n : Nat) : Bool := anyOutstanding p (fun t => decide (t.kind = .poll) && decide (t.node = n))

/-- A TRIM, whatever its gain. -/
def TxKind.isTrim : TxKind → Bool
  | .trim _ => true
  | _ => false

/-- A TRIM for the channel is in the queue or on the bus (R142). -/
def trimOutstanding (p : Blocks) (ch : Nat) : Bool := anyOutstanding p (fun t => t.kind.isTrim && decide (t.channel = some ch))

/-- A polling round from a list of nodes: it ends at the first POLL that a full queue keeps out (R103). -/
def pollNodes : List Nat → Blocks → Blocks
  | [], p => p
  | n :: ns, p =>
    if !nodePresent p n && nodeReferenced p.store.settings n && !pollOutstanding p n then
      if p.bus.queue.length < 64 then pollNodes ns (offer (pollTx n) p) else p
    else pollNodes ns p

/-- A polling round (R103). -/
def pollingRound (p : Blocks) : Blocks := pollNodes nodeNumbers p

/-- The POLLs of a reset: one for each referenced node, in ascending order (R109). -/
def pollReferenced (p : Blocks) : Blocks :=
  nodeNumbers.foldl (fun q n => if nodeReferenced q.store.settings n then offer (pollTx n) q else q) p

end Sys2Proof.Machine
end

