-- ==== Sys2Proof/Machine/Slots.lean ====
section
/-! DEFINITION. One play slot by itself: its first PLAY clips, firing cues, GO, holds, launch groups before GO, and priming (R13, R43, R49, R52, R56 to R60, R76 to R82). -/

namespace Sys2Proof.Machine

/-! ### What the store serves (R13) -/

/-- The clip of the earliest PLAY on channel index `i`, none where there is none (R13). -/
def firstPlay (sh : ShowRecord) (i : Nat) : Option Nat :=
  sh.cues.findSome? (fun c => match c.action with
    | .play j clip _ _ => if j = i then some clip else none
    | .scene _ _ _ => none
    | .level _ _ _ => none
    | .pulse _ _ => none
    | .stop _ => none
    | .hold _ => none
    | .mark _ => none)

/-- Whether priming prepares channels of a kind (R49). -/
def ChannelKind.primes : ChannelKind → Bool
  | .video => true
  | .audio => true
  | .light => false
  | .effect => false

/-- The channels that priming prepares, in list order, each with its first PLAY clip (R49). -/
def primeList (p : Blocks) (sh : ShowRecord) : List (Nat × Nat) :=
  sh.channels.zipIdx.filterMap (fun c => match channelEntry p c.1 with
    | none => none
    | some e => if e.kind.primes then (firstPlay sh c.2).map (fun clip => (c.1, clip)) else none)

/-- The further passes of a slot being taken: endless for a repeat of 0 (R43). -/
def repeatsOf (plays : Nat) : Option Nat := if plays = 0 then none else some (plays - 1)

/-- The record of a slot being taken (R43). -/
def SlotRec.taken (id : Nat) (sh : ShowRecord) (origin : Origin) : SlotRec :=
  { state := .pending, showId := id, cls := sh.cls, origin := origin, step := 0, pointer := 0, clock := 0,
    repeats := repeatsOf sh.plays, deadline := none, primeTimer := none, heldWhenSuspended := false, waitEntry := none,
    late := false, missing := [], skipped := 0, group := none, began := false }

/-! ### Last state -/

/-- Make the last state of a slot's entry on every channel absent: its entries are on the channels of its show (R27). -/
def clearLast (k : Nat) (p : Blocks) : Blocks :=
  { p with map := { p.map with owners := tmap (fun es => es.map (fun e => if e.slot = k then { e with last := none } else e)) p.map.owners } }

/-! ### Firing cues (R56 to R58) -/

/-- Move the cue pointer. -/
def pointerTo (k ci : Nat) (p : Blocks) : Blocks := modSlot k (fun r => { r with pointer := ci }) p

/-- A fired cue becomes a transaction at its slot's class; for an ABSENT node it is skipped (R57, R91). -/
def fireTx (k ci ch : Nat) (kind : TxKind) (p : Blocks) : Blocks :=
  match slotOf p k with
  | none => p
  | some r => offerChannel ch kind r.cls (some k) (some ci) ((entryOn p ch k).map (fun e => e.uid)) p

/-- Carry out the action of cue `ci`. A HOLD leaves the pointer on itself; every other action moves it past. -/
def fireAction (k ci : Nat) (sh : ShowRecord) (a : CueAction) (r : SlotRec) (p : Blocks) : Blocks :=
  let chan (i : Nat) : Nat := sh.channels.getD i 0
  match a with
  | .play i clip lvl loop => fireTx k ci (chan i) (.play clip lvl loop false 0) (pointerTo k (ci + 1) p)
  | .scene i scene fade => fireTx k ci (chan i) (.scene scene fade) (pointerTo k (ci + 1) p)
  | .level i lvl fade => fireTx k ci (chan i) (.level lvl fade) (pointerTo k (ci + 1) p)
  | .pulse i duration => fireTx k ci (chan i) (.pulse duration) (pointerTo k (ci + 1) p)
  | .stop i => fireTx k ci (chan i) .stop (pointerTo k (ci + 1) p)
  | .hold timeout =>
    putNotice (.showHeld k r.showId ci timeout)
      (modSlot k (fun q => { q with state := .held, pointer := ci, deadline := ticksOf timeout }) p)
  | .mark number => putNotice (.mark k r.showId number ci r.clock) (pointerTo k (ci + 1) p)

/-- Fire the due cues of a list that stands at index `ci` of the show, in order, up to a cue not yet due or a HOLD (R56). -/
def fireCues (k : Nat) (sh : ShowRecord) : List Cue → Nat → Blocks → Blocks
  | [], _, p => p
  | c :: cs, ci, p =>
    match slotOf p k with
    | none => p
    | some r =>
      if r.state = .running ∧ c.offset ≤ r.clock then fireCues k sh cs (ci + 1) (fireAction k ci sh c.action r p) else p

/-- Fire a slot's due cues from its cue pointer (R56). -/
def fireDue (k : Nat) (p : Blocks) : Blocks :=
  match slotShow p k with
  | none => p
  | some (r, sh) => fireCues k sh (sh.cues.drop r.pointer) r.pointer p

/-! ### GO (R52) -/

/-- GO: step 3, RUNNING, clock and pointer 0, last states absent, SHOW-STARTED, then the cues at offset 0 (R52). -/
def goSlot (k : Nat) (p : Blocks) : Blocks :=
  match slotOf p k with
  | none => p
  | some r =>
    let r' : SlotRec := { r with state := .running, step := 3, clock := 0, pointer := 0, primeTimer := none, group := none, began := true }
    fireDue k (putNotice (.showStarted k r.showId r.origin r.missing r.late) (clearLast k (setSlot k (some r') p)))

/-! ### Launch groups (R76 to R82) -/

/-- The members still in a group: the leader first if it remains, then the followers in their order. -/
def LaunchGroup.members (g : LaunchGroup) : List Nat := (if g.leaderIn then [g.leader] else []) ++ g.followers

/-- Replace the groups. -/
def setGroups (gs : List LaunchGroup) (p : Blocks) : Blocks := { p with runner := { p.runner with groups := gs } }

/-- Take a slot out of the group it belongs to (R82). -/
def leaveGroup (k : Nat) (p : Blocks) : Blocks :=
  modSlot k (fun r => { r with group := none })
    (setGroups (p.runner.groups.map (fun g =>
      { g with leaderIn := g.leaderIn && decide (g.leader ≠ k), followers := g.followers.filter (fun f => decide (f ≠ k)) })) p)

/-- A PRIMING slot at step 2. -/
def atStep2 (p : Blocks) (k : Nat) : Bool :=
  match slotOf p k with
  | none => false
  | some r => decide (r.state = .priming) && decide (r.step = 2)

/-- GO for one member if it is at step 2; a member at step 1 keeps priming alone (R82). -/
def goIfReady (k : Nat) (p : Blocks) : Blocks := if atStep2 p k then goSlot k p else p

/-- Delete a group and make its members' group fields absent (R76). -/
def deleteGroup (g : LaunchGroup) (p : Blocks) : Blocks :=
  g.members.foldl (fun q k => modSlot k (fun r => { r with group := none }) q)
    (setGroups (p.runner.groups.filter (fun h => decide (h.leader ≠ g.leader))) p)

/-- A group dissolves when its leader has left, or when it has formed and holds no follower (R82). -/
def LaunchGroup.dissolves (g : LaunchGroup) : Bool := !g.leaderIn || (!g.forming && g.followers.isEmpty)

/-- A group that has formed takes its GO when every member is at step 2 (R81). -/
def LaunchGroup.goes (g : LaunchGroup) (p : Blocks) : Bool := !g.forming && g.members.all (atStep2 p)

/-- The slots that have still to end in the action at hand (R82; log entry 18). -/
def Foresight.ahead : Foresight → List Nat
  | .idle => []
  | .recording _ => []
  | .known ks => ks

/-- Delete a group whose members at step 2 take GO at once, leader first (R81). -/
def goGroup (g : LaunchGroup) (p : Blocks) : Blocks := g.members.foldl (fun q k => goIfReady k q) (deleteGroup g p)

/-- Delete a group whose members at step 2 take GO at once, leader first, but for one that itself ends in the action at hand (R82; log entry 18). -/
def dissolveGroup (g : LaunchGroup) (p : Blocks) : Blocks :=
  (g.members.filter (fun k => !p.runner.foresight.ahead.contains k)).foldl (fun q k => goIfReady k q) (deleteGroup g p)

/-- A group after a removal: it dissolves, or takes its GO, without a member that itself ends in the action at hand (R81, R82; log entry 18). -/
def settleGroup (g : LaunchGroup) (p : Blocks) : Blocks := if g.dissolves || g.goes p then dissolveGroup g p else p

/-- Consider every group after a removal, in the order in which the groups were formed: R82 orders the members of one group, and the order of the groups is the model's choice (R81, R82; log entry 18). -/
def settleGroups (p : Blocks) : Blocks := p.runner.groups.foldl (fun q g => settleGroup g q) p

/-- Consider the group of a leader slot, when it has formed or a member has become ready: it dissolves (R77, R82), or takes its GO (R81). -/
def considerGroup (leader : Nat) (p : Blocks) : Blocks :=
  match p.runner.groups.find? (fun g => decide (g.leader = leader)) with
  | none => p
  | some g => if g.dissolves then dissolveGroup g p else if g.goes p then goGroup g p else p

/-! ### Priming (R49, R79) -/

/-- A slot is ready: alone it takes GO; in a group it takes step 2, its timer stops, and the group's GO is considered (R49, R79). -/
def slotReady (k : Nat) (p : Blocks) : Blocks :=
  match slotOf p k with
  | none => p
  | some r =>
    match r.group with
    | none => goSlot k p
    | some leader => considerGroup leader (setSlot k (some { r with step := 2, primeTimer := none }) p)

/-- The PREPAREs of priming: one for each PRESENT node's channel (R49); an ABSENT node's gets none (R91). -/
def offerPrepares (k : Nat) (cls : ShowClass) (chs : List (Nat × Nat)) (p : Blocks) : Blocks :=
  chs.foldl (fun q c => offerChannel c.1 (.prepare c.2) cls (some k) none none q) p

/-- A slot enters priming (R49). -/
def enterPriming (k : Nat) (p : Blocks) : Blocks :=
  match slotShow p k with
  | none => p
  | some (r, sh) =>
    let awaited := primeList p sh
    let r' : SlotRec :=
      { r with state := .priming, step := 1, missing := awaited.map (fun c => c.1), primeTimer := some (sh.primeTimeout * 10), began := true }
    let p1 := offerPrepares k r.cls awaited (setSlot k (some r') p)
    if awaited.isEmpty then slotReady k p1 else p1

/-- READY from a node (R50). -/
def readySlot (k ch clip : Nat) (p : Blocks) : Blocks :=
  match slotShow p k with
  | none => p
  | some (r, sh) =>
    if r.state = .priming ∧ ch ∈ r.missing ∧ (ch, clip) ∈ primeList p sh then
      let left := r.missing.filter (fun c => decide (c ≠ ch))
      let p1 := setSlot k (some { r with missing := left }) p
      if left.isEmpty ∧ r.step = 1 then slotReady k p1 else p1
    else p

end Sys2Proof.Machine
end

