-- ==== Sys2Proof/Machine/Claims.lean ====
section
/-! DEFINITION. Claims, endings, removals and starts: what slots do to one another over the owner stacks (R28 to R41, R45 to R48, R51, R54, R55, R59 to R67, R75 to R83). A removal is given the pending scan that follows it; `scan` ties that knot by the number of slots that wait. -/

namespace Sys2Proof.Machine

/-! ### Endings (R66, R67, R69, R83) -/

/-- Take a slot out of the wait order (R31). -/
def leaveWait (k : Nat) (p : Blocks) : Blocks :=
  { p with map := { p.map with waitOrder := p.map.waitOrder.filter (fun j => decide (j ≠ k)) } }

/-- Load a show's rest timer; a rest time of 0 leaves it idle (R69). -/
def loadRest (id seconds : Nat) (p : Blocks) : Blocks :=
  { p with runner := { p.runner with rest := tset p.runner.rest id (loadTimer seconds) } }

/-- The STOPs of a slot that ends while PRIMING, for its channels that answered READY (R67). -/
def primeStops (k : Nat) (why : EndReason) (p : Blocks) : Blocks :=
  match slotShow p k with
  | none => p
  | some (r, sh) =>
    if r.state = .priming ∧ why ≠ .yielded then
      offerEach .stop r.cls (((primeList p sh).map (fun c => c.1)).filter (fun c => !r.missing.contains c)) p
    else p

/-- The step that SHOW-ENDED carries (R63, R66). -/
def endStep (why : EndReason) (r : SlotRec) : Nat := if why = .yielded ∧ r.step = 2 then 1 else r.step

/-- A show's rest time, in seconds (R69). -/
def restOf (p : Blocks) (id : Nat) : Nat :=
  match showOf p id with
  | none => 0
  | some sh => sh.rest

/-- Write what is foreseen of the action at hand. -/
def setForesight (f : Foresight) (p : Blocks) : Blocks := { p with runner := { p.runner with foresight := f } }

/-- What is foreseen once slot `k` has ended (R82; log entry 18). -/
def Foresight.after (k : Nat) : Foresight → Foresight
  | .idle => .idle
  | .recording ks => .recording (ks ++ [k])
  | .known ks => .known (ks.erase k)

/-- A slot has ended: its ending is recorded, or is no longer ahead. -/
def noteEnd (k : Nat) (p : Blocks) : Blocks := setForesight (p.runner.foresight.after k) p

/-- A slot ends, but for its entries: it leaves the wait order and its group, SHOW-ENDED is sent, it becomes FREE, its show's rest is loaded (R66). -/
def finishSlot (k : Nat) (why : EndReason) (p : Blocks) : Blocks :=
  match slotOf p k with
  | none => p
  | some r =>
    noteEnd k (loadRest r.showId (restOf p r.showId)
      (setSlot k none (leaveGroup k (putNotice (.showEnded k r.showId r.origin why (endStep why r) r.skipped) (leaveWait k p)))))

/-- One ending of an event that ends several (R66, R67). -/
def endOne (k : Nat) (why : EndReason) (p : Blocks) : Blocks := finishSlot k why (primeStops k why p)

/-- Slot `k` is tied to the ending slot `j` (R83). -/
def tiedToSlot (p : Blocks) (j k : Nat) : Bool :=
  match slotShow p k, slotOf p j with
  | some (r, sh), some rj => decide (r.origin = .leader j) && sh.tied && decide (sh.leader = some rj.showId)
  | _, _ => false

/-- The slots that end with reason LEADER beside the ending slots `js`, in ascending order (R83; log entry 17). -/
def tiedTo (p : Blocks) (js : List Nat) : List Nat :=
  slotNumbers.filter (fun k => !js.contains k && js.any (fun j => tiedToSlot p j k))

/-! ### Removal: exposure and regain (R32 to R34, R39, R40, R65) -/

/-- Some entry belongs to one of the slots. -/
def holdEntries (p : Blocks) (ks : List Nat) : Bool := p.map.owners.toList.any (fun es => es.any (fun e => ks.contains e.slot))

/-- The channels whose top entry belongs to one of the slots, ascending, each with that entry's class (R33). -/
def exposedBy (p : Blocks) (ks : List Nat) : List (Nat × ShowClass) :=
  channelNumbers.filterMap (fun ch => match topEntry p ch with
    | none => none
    | some e => if ks.contains e.slot then some (ch, e.cls) else none)

/-- Take every entry of the slots off the stacks (R32). -/
def takeOff (ks : List Nat) (p : Blocks) : Blocks :=
  { p with map := { p.map with owners := tmap (fun es => es.filter (fun e => !ks.contains e.slot)) p.map.owners } }

/-- An exposed channel gets a STOP, unless its new top can regain (R33). -/
def exposeChannel (ch : Nat) (cls : ShowClass) (p : Blocks) : Blocks :=
  match topEntry p ch with
  | none => offerChannel ch .stop cls none none none p
  | some e => if topEverywhere p e.slot then p else offerChannel ch .stop cls none none none p

/-- The restoration cue of a last state at a show clock (R39). -/
def restorationOf (last : LastState) (clock : Nat) : TxKind :=
  match last with
  | .play clip lvl loop offset => .play clip lvl loop true (clock - offset)
  | .scene scene _ => .scene scene 0
  | .level lvl _ => .level lvl 0

/-- Offer the restoration cue of a slot's entry on a channel, if it has a last state (R39); an ABSENT node gets none (R40, R91). -/
def restoreChannel (k ch : Nat) (p : Blocks) : Blocks :=
  match slotOf p k, entryOn p ch k with
  | some r, some e =>
    match e.last with
    | none => p
    | some l => offerChannel ch (restorationOf l r.clock) r.cls (some k) none none p
  | _, _ => p

/-- A slot primes again from cue 0 (R65). -/
def primeAgain (k : Nat) (p : Blocks) : Blocks :=
  match slotShow p k with
  | none => p
  | some (r, sh) =>
    let r' : SlotRec :=
      { r with
        state := .priming, step := 1, clock := 0, pointer := 0, deadline := none, heldWhenSuspended := false
        repeats := repeatsOf sh.plays, group := none }
    enterPriming k (setSlot k (some r') p)

/-- A slot regains its channels (R65): it returns RUNNING or HELD with its restoration cues, or primes again. -/
def regainSlot (k : Nat) (p : Blocks) : Blocks :=
  match slotShow p k with
  | none => p
  | some (r, sh) =>
    if r.step = 3 ∧ sh.preempt = .resume then
      let back : SlotRec := { r with state := if r.heldWhenSuspended then .held else .running, group := none, began := true }
      sh.channels.foldl (fun q ch => restoreChannel k ch q)
        (putNotice (.showResumed k r.showId r.late r.heldWhenSuspended false) (setSlot k (some back) p))
    else
      let late := r.late || decide (r.step = 3)
      primeAgain k (putNotice (.showResumed k r.showId late false true) (setSlot k (some { r with late := late }) p))

/-- A SUSPENDED slot that is top everywhere regains (R34). -/
def regainIfTop (k : Nat) (p : Blocks) : Blocks :=
  match slotOf p k with
  | none => p
  | some r => if r.state = .suspended ∧ topEverywhere p k then regainSlot k p else p

/-- A removal (R32): entries off, then what follows for launch groups (R81, R82; log entry 18), exposure (R33), regain (R34) and the pending scan (R35). Slots without entries add nothing and start no scan (R31, R32). -/
def removal (rescan : Blocks → Blocks) (ks : List Nat) (p : Blocks) : Blocks :=
  if holdEntries p ks then
    let exposed := exposedBy p ks
    let p1 := settleGroups (takeOff ks p)
    let p2 := exposed.foldl (fun q c => exposeChannel c.1 c.2 q) p1
    rescan (slotNumbers.foldl (fun q k => regainIfTop k q) p2)
  else settleGroups p

/-- Several slots end at one event, each with its reason, with their tied followers and one removal (R32, R66, R83). -/
def endSlotsWith (rescan : Blocks → Blocks) (ends : List (Nat × EndReason)) (p : Blocks) : Blocks :=
  let tied := tiedTo p (ends.map (fun e => e.1))
  let all := ends ++ tied.map (fun k => (k, EndReason.leader))
  removal rescan (all.map (fun e => e.1)) (all.foldl (fun q e => endOne e.1 e.2 q) p)

/-! ### Claims (R28, R29) and preemption (R62 to R64) -/

/-- A slot's claim would succeed (R28). -/
def claimable (p : Blocks) (k : Nat) : Bool :=
  match slotShow p k with
  | none => false
  | some (r, sh) => sh.channels.all (fun ch => match topEntry p ch with
    | none => true
    | some e => e.cls.below r.cls)

/-- Push a slot's entry onto a channel (R29). -/
def pushEntry (k : Nat) (r : SlotRec) (ch : Nat) (p : Blocks) : Blocks :=
  let e : StackEntry := { cls := r.cls, slot := k, showId := r.showId, last := none, uid := p.map.nextUid }
  setOwners ch (e :: ownersOf p ch) { p with map := { p.map with nextUid := p.map.nextUid + 1 } }

/-- A state in which a covered slot is preempted (R29). -/
def SlotState.preemptible : SlotState → Bool
  | .pending => false
  | .priming => true
  | .running => true
  | .held => true
  | .suspended => false

/-- The slots that a claim for the channels preempts, in list order, each once (R29). -/
def coveredBy (p : Blocks) (channels : List Nat) : List Nat :=
  (channels.filterMap (fun ch => match topEntry p ch with
    | none => none
    | some e => match slotOf p e.slot with
      | none => none
      | some r => if r.state.preemptible then some e.slot else none)).eraseDups

/-- A slot whose show yields (R63). -/
def yields (p : Blocks) (k : Nat) : Bool :=
  match slotShow p k with
  | none => false
  | some (_, sh) => decide (sh.preempt = .yield)

/-- A slot becomes SUSPENDED under the claim of slot `over` of class `cls` (R62, R64, R82). -/
def suspendSlot (above : Nat) (cls : ShowClass) (k : Nat) (p : Blocks) : Blocks :=
  match slotShow p k with
  | none => p
  | some (r, sh) =>
    let held := decide (r.state = .held)
    let r' : SlotRec :=
      if r.state = .priming then { r with state := .suspended, step := 1, primeTimer := none, missing := [], heldWhenSuspended := false }
      else { r with state := .suspended, heldWhenSuspended := held }
    putNotice (.showSuspended k r.showId above r'.step held) (offerEach .pause cls sh.channels (leaveGroup k (setSlot k (some r') p)))

/-- A slot yields: STOPs at the preemptor's class, then it ends with reason YIELDED, but for its entries (R63). -/
def yieldSlot (cls : ShowClass) (k : Nat) (p : Blocks) : Blocks :=
  match slotShow p k with
  | none => p
  | some (_, sh) => finishSlot k .yielded (offerEach .stop cls sh.channels p)

/-- Preempt one slot by its show's policy (R29). -/
def preemptSlot (above : Nat) (cls : ShowClass) (k : Nat) (p : Blocks) : Blocks :=
  if yields p k then yieldSlot cls k p else suspendSlot above cls k p

/-- A claim is granted (R29): entries pushed, covered slots preempted, and the removal of those that yield, with their tied followers (log entry 19). The slot is then at step 1 and has not entered priming. -/
def grant (rescan : Blocks → Blocks) (k : Nat) (p : Blocks) : Blocks :=
  match slotShow p k with
  | none => p
  | some (r, sh) =>
    let covered := coveredBy p sh.channels
    let yielders := covered.filter (yields p)
    let tied := tiedTo p yielders
    let r' : SlotRec := { r with state := .priming, step := 1, waitEntry := none, primeTimer := none, missing := (primeList p sh).map (fun c => c.1) }
    let p1 := sh.channels.foldl (fun q ch => pushEntry k r' ch q) (setSlot k (some r') p)
    let p2 := covered.foldl (fun q c => preemptSlot k r'.cls c q) p1
    let p3 := tied.foldl (fun q c => endOne c .leader q) p2
    removal rescan (yielders ++ tied) p3

/-- The slot holds the claim granted to it and has not entered priming. -/
def claimStands (p : Blocks) (k : Nat) : Bool :=
  match slotOf p k with
  | none => false
  | some r => decide (r.state = .priming) && decide (r.step = 1) && decide (r.primeTimer = none)

/-! ### The checks of a start (R45) -/

/-- The origins whose starts a running rest timer refuses (R45, R69). -/
def Origin.rests : Origin → Bool
  | .link => false
  | .trigger _ => true
  | .schedule _ => true
  | .showSet _ => true
  | .leader _ => false
  | .autostart => true
  | .alarm => false

/-- The origins whose starts may carry the RESTART option (R48). -/
def Origin.restarts : Origin → Bool
  | .link => true
  | .trigger _ => true
  | .schedule _ => false
  | .showSet _ => false
  | .leader _ => false
  | .autostart => false
  | .alarm => false

/-- A show's rest timer is running (R69). -/
def resting (p : Blocks) (id : Nat) : Bool := ((tget p.runner.rest id : Option Timer)).isSome

/-- Checks 1 to 6 of R45. -/
def checkStart (p : Blocks) (id : Nat) (origin : Origin) : Option Reason :=
  if 63 < id then some .badField
  else
    match showOf p id with
    | none => some .noShow
    | some sh =>
      if sh.cls = .override ∧ origin ≠ .alarm then some .badClass
      else if underAlarm p ∧ origin ≠ .alarm then some .alarm
      else if sh.cues.isEmpty then some .emptyShow
      else if origin.rests ∧ resting p id then some .resting
      else none

/-! ### Followers and the pending scan (R35, R75 to R78) -/

/-- The members of the forming group of a leader slot. -/
def formingMembers (p : Blocks) (leader : Nat) : List Nat :=
  match p.runner.groups.find? (fun g => decide (g.leader = leader) && g.forming) with
  | none => []
  | some g => g.members

/-- The show of a slot lists a channel of the list. -/
def sharesChannel (p : Blocks) (channels : List Nat) (k : Nat) : Bool :=
  match slotShow p k with
  | none => false
  | some (_, sh) => sh.channels.any (fun ch => channels.contains ch)

/-- A follower's slot joins the forming group of its leader, where that group still stands (R77, R78). -/
def joinGroup (leader k : Nat) (p : Blocks) : Blocks :=
  if (formingMembers p leader).isEmpty then p
  else
    modSlot k (fun r => { r with group := some leader })
      (setGroups (p.runner.groups.map (fun g =>
        if g.leader = leader ∧ g.forming then { g with followers := g.followers ++ [k] } else g)) p)

/-- A follower's slot after its claim has been granted: it joins the group and enters priming (R78). -/
def launchFollower (leader k : Nat) (p : Blocks) : Blocks :=
  if claimStands p k then enterPriming k (joinGroup leader k p) else p

/-- A refused start of a follower (R78). -/
def refuseFollower (leader id : Nat) (why : Reason) (step : RefusalStep) (p : Blocks) : Blocks :=
  putNotice (.startRefused (.leader leader) (some id) why step) p

/-- The launch coordinator starts one follower of slot `leader` (R78). -/
def startFollower (rescan : Blocks → Blocks) (leader : Nat) (p : Blocks) (id : Nat) : Blocks :=
  match checkStart p id (.leader leader), showOf p id with
  | some why, _ => refuseFollower leader id why .check p
  | none, none => p
  | none, some sh =>
    if showActive p id then refuseFollower leader id .already .check p
    else
      match lowestFree p with
      | none => refuseFollower leader id .slotFull .check p
      | some k =>
        let taken := setSlot k (some (SlotRec.taken id sh (.leader leader))) p
        if (formingMembers p leader).any (sharesChannel p sh.channels) || !claimable taken k then
          refuseFollower leader id .channelBusy .claim p
        else launchFollower leader k (grant rescan k taken)

/-- The group of a leader slot has formed (step 4 of R77). -/
def groupFormed (leader : Nat) (p : Blocks) : Blocks :=
  considerGroup leader (setGroups (p.runner.groups.map (fun g => if g.leader = leader then { g with forming := false } else g)) p)

/-- A leader's claim has been granted: the group forms, the leader primes, and each follower is started (R77). A leader that no longer holds its claim starts them all the same, without a group. -/
def formGroup (rescan : Blocks → Blocks) (leader : Nat) (followers : List Nat) (p : Blocks) : Blocks :=
  let p1 :=
    if claimStands p leader then
      enterPriming leader (modSlot leader (fun r => { r with group := some leader })
        (setGroups (p.runner.groups ++ [{ leader := leader, followers := [], forming := true, leaderIn := true }]) p))
    else p
  groupFormed leader (followers.foldl (fun q id => startFollower rescan leader q id) p1)

/-- What follows a granted claim of slot `k`, of show `id`: GO at once for the alarm's start (R53), a launch for a leader (R77), priming for any other (R49). -/
def afterClaim (rescan : Blocks → Blocks) (k id : Nat) (origin : Origin) (p : Blocks) : Blocks :=
  match origin, followersOf p.store.settings id with
  | .alarm, _ => goSlot k (modSlot k (fun r => { r with missing := [] }) p)
  | _, [] => if claimStands p k then enterPriming k p else p
  | _, f :: fs => formGroup rescan k (f :: fs) p

/-- The pending scan for at most `n` grants (R35). After a grant it begins again from the oldest; a slot that failed before the grant fails again, since a grant raises what stands on top. -/
def scan : Nat → Blocks → Blocks
  | 0, p => p
  | n + 1, p =>
    match p.map.waitOrder.find? (fun k => claimable p k) with
    | none => p
    | some k =>
      match slotOf p k with
      | none => p
      | some r => scan n (afterClaim (scan n) k r.showId r.origin (grant (scan n) k (leaveWait k p)))

/-- The pending scan (R35). Each grant takes one slot out of the wait order, and nothing joins it meanwhile. -/
def pendingScan (p : Blocks) : Blocks := scan p.map.waitOrder.length p

/-! ### Actions that end slots (R82) -/

/-- The endings that a trial run has recorded. -/
def Foresight.ended : Foresight → List Nat
  | .idle => []
  | .recording ks => ks
  | .known _ => []

/-- The slots that end in an action, one for each ending, in order: those of a trial run in which no GO is withheld. A GO ends no slot and changes no claim, so they are the endings of the action itself (R82; log entry 18). -/
def endingsOf (act : Blocks → Blocks) (p : Blocks) : List Nat := (act (setForesight (.recording []) p)).runner.foresight.ended

/-- An action is carried out with its endings foreseen (R82; log entry 18). -/
def foresee (act : Blocks → Blocks) (p : Blocks) : Blocks := setForesight .idle (act (setForesight (.known (endingsOf act p)) p))

/-- Several slots end at one event (R66). -/
def endSlots (ends : List (Nat × EndReason)) (p : Blocks) : Blocks := foresee (endSlotsWith pendingScan ends) p

/-- Slots end at one event, for a request that replies with the number of slots ended at it, those that end in the scan among them, each once (R41, R161; log entry 16). -/
def endCounted (ends : List (Nat × EndReason)) (p : Blocks) : Nat × Blocks :=
  ((endingsOf (endSlotsWith pendingScan ends) p).eraseDups.length, endSlots ends p)

/-! ### Starts (R45 to R48) -/

/-- The show begins again in its slot (R48). -/
def beginAgain (k : Nat) (origin : Origin) (p : Blocks) : Blocks :=
  match slotShow p k with
  | none => p
  | some (r, sh) =>
    let r' : SlotRec := { r with state := .running, origin := origin, clock := 0, pointer := 0, repeats := repeatsOf sh.plays, deadline := none, late := false, began := true }
    fireDue k (putNotice (.showStarted k r.showId origin r.missing false) (clearLast k (setSlot k (some r') p)))

/-- A slot whose show may begin again (R48). -/
def runsOrHolds (p : Blocks) (k : Nat) : Bool :=
  match slotOf p k with
  | none => false
  | some r => decide (r.state = .running) || decide (r.state = .held)

/-- A slot joins the wait order with the counter's number, and the counter goes up (R31). -/
def joinWait (k : Nat) (r : SlotRec) (p : Blocks) : Blocks :=
  setSlot k (some { r with state := .pending, waitEntry := some p.map.waitCounter })
    { p with map := { p.map with waitOrder := p.map.waitOrder ++ [k], waitCounter := (p.map.waitCounter + 1) % 65536 } }

/-- A start that has passed R45 takes slot `k` and requests its claim (R46, R30). -/
def takeSlot (k id : Nat) (sh : ShowRecord) (origin : Origin) (p : Blocks) : StartResult × Blocks :=
  let r := SlotRec.taken id sh origin
  let taken := setSlot k (some r) p
  if claimable taken k then (.accepted k .claimed, foresee (fun q => afterClaim pendingScan k id origin (grant pendingScan k q)) taken)
  else
    match sh.conflict with
    | .wait => (.accepted k (.pending p.map.waitCounter), joinWait k r p)
    | .refuse => (.refused .channelBusy .claim, p)

/-- A start of a show with an origin, plain or with the RESTART option (R45 to R48). -/
def startShow (id : Nat) (origin : Origin) (restart : Bool) (p : Blocks) : StartResult × Blocks :=
  match checkStart p id origin, showOf p id with
  | some why, _ => (.refused why .check, p)
  | none, none => (.refused .noShow .check, p)
  | none, some sh =>
    match slotHolding p id with
    | some k =>
      if restart && origin.restarts && runsOrHolds p k then (.accepted k .restarted, beginAgain k origin p)
      else (.refused .already .check, p)
    | none =>
      match lowestFree p with
      | none => (.refused .slotFull .check, p)
      | some k => takeSlot k id sh origin p

/-! ### Length, holds, timers and ticks (R51, R54, R55, R59, R60, R80) -/

/-- The length check (R55). The clock after a loop is 0, below every length, so one check is enough. -/
def lengthCheck (k : Nat) (p : Blocks) : Blocks :=
  match slotShow p k with
  | none => p
  | some (r, sh) =>
    if r.state = .running ∧ sh.length ≤ r.clock ∧ sh.cues.length ≤ r.pointer then
      match r.repeats with
      | none => fireDue k (clearLast k (setSlot k (some { r with clock := 0, pointer := 0 }) p))
      | some 0 => endSlots [(k, .complete)] p
      | some (n + 1) => fireDue k (clearLast k (setSlot k (some { r with clock := 0, pointer := 0, repeats := some n }) p))
    else p

/-- The hold of a HELD slot is released (R60). -/
def releaseHold (k : Nat) (p : Blocks) : Blocks :=
  match slotOf p k with
  | none => p
  | some r =>
    lengthCheck k (fireDue k (setSlot k (some { r with state := .running, pointer := r.pointer + 1, deadline := none, began := true }) p))

/-- The followers still in the group that slot `k` leads. -/
def followersLed (p : Blocks) (k : Nat) : List Nat :=
  match p.runner.groups.find? (fun g => decide (g.leader = k)) with
  | none => []
  | some g => g.followers

/-- A PRIMING slot's prime timer has reached 0 (R51, R80). -/
def settlePriming (k : Nat) (p : Blocks) : Blocks :=
  match slotShow p k with
  | none => p
  | some (r, sh) =>
    match sh.primeMode with
    | .lenient => slotReady k p
    | .strict =>
      if r.group = some k then endSlots ((k, .notReady) :: (followersLed p k).map (fun f => (f, EndReason.leader))) p
      else endSlots [(k, .notReady)] p

/-- A hold times out (R59). -/
def holdExpires (k : Nat) (p : Blocks) : Blocks :=
  match slotOf p k with
  | none => p
  | some r => if r.state = .held ∧ r.deadline.isSome then releaseHold k p else p

/-- A prime timer expires (R51). -/
def primeExpires (k : Nat) (p : Blocks) : Blocks :=
  match slotOf p k with
  | none => p
  | some r => if r.state = .priming ∧ r.primeTimer.isSome then settlePriming k (setSlot k (some { r with primeTimer := none }) p) else p

/-- A RUNNING slot takes a tick: its clock goes up by one, due cues fire, the length is checked (R54, R55). -/
def advanceSlot (k : Nat) (r : SlotRec) (p : Blocks) : Blocks :=
  lengthCheck k (fireDue k (setSlot k (some { r with clock := r.clock + 1 }) p))

/-- A slot takes a show tick (R49, R54, R59). A HELD slot counts its deadline at every tick that it takes while HELD (R59); a RUNNING or PRIMING slot that has come into its state since the tick instant does not count this tick (R54, R148; log entry 33). The end of a show at its own tick may suspend, end or regain a slot that has not yet taken that tick (R35, R62, R65, R83): whether that slot then counts it follows from the order of the takers, which the command gives, the model's choice (log entry 5). -/
def slotTick (k : Nat) (p : Blocks) : Blocks :=
  match slotOf p k with
  | none => p
  | some r =>
    match r.state, r.deadline, r.primeTimer with
    | .running, _, _ => if r.began then p else advanceSlot k r p
    | .held, some d, _ => if d ≤ 1 then holdExpires k p else setSlot k (some { r with deadline := some (d - 1) }) p
    | .priming, _, some t =>
      if r.began then p else if t ≤ 1 then primeExpires k p else setSlot k (some { r with primeTimer := some (t - 1) }) p
    | _, _, _ => p

/-! ### Ending every slot without a removal (R37, R74) -/

/-- Empty every stack, the wait order and the groups (R37, R86). -/
def clearStacks (p : Blocks) : Blocks :=
  { p with
    map := { p.map with owners := Vector.replicate 128 [], waitOrder := [] }
    runner := { p.runner with groups := [] } }

/-- At alarm entry and at STOP-ALL: every slot that is not FREE ends with the reason, in ascending order, and the stacks are cleared (R37, R66). -/
def clearAll (why : EndReason) (p : Blocks) : Blocks :=
  clearStacks ((busySlots p).foldl (fun q k => finishSlot k why q) p)

end Sys2Proof.Machine
end

