-- ==== Sys2Proof/Machine/Triggers.lean ====
section
/-! DEFINITION. Route actions, show sets and taking a source (R118 to R121, R126). -/

namespace Sys2Proof.Machine

/-- A refused start, where its origin reports it (R73). -/
def reportRefusal (report : Bool) (origin : Origin) (id : Nat) (res : StartResult) (p : Blocks) : Blocks :=
  match res with
  | .accepted _ _ => p
  | .refused why step => if report then putNotice (.startRefused origin (some id) why step) p else p

/-- A start whose refusal is reported at once when `report` is set. -/
def startReported (report restart : Bool) (origin : Origin) (id : Nat) (p : Blocks) : StartResult × Blocks :=
  let out := startShow id origin restart p
  (out.1, reportRefusal report origin id out.1 out.2)

/-- A start was accepted: its claim succeeded or its slot became PENDING (R126). -/
def StartResult.accepted? : StartResult → Bool
  | .accepted _ _ => true
  | .refused _ _ => false

/-- Start the shows of a list one after another, each carried to its end (R126). -/
def startEach (report : Bool) (number : Nat) : List Nat → Blocks → List (Nat × StartResult) × Blocks
  | [], p => ([], p)
  | id :: ids, p =>
    let out := startReported report false (.showSet number) id p
    let rest := startEach report number ids out.2
    ((id, out.1) :: rest.1, rest.2)

/-- Write a set's pointer. -/
def setPointer (number ptr : Nat) (p : Blocks) : Blocks :=
  { p with trigger := { p.trigger with pointers := tset p.trigger.pointers number ptr } }

/-- Start a defined show set: the show at the pointer in CYCLE mode, every show in ALL mode; the outcomes in the order made (R126). -/
def startDefinedSet (report : Bool) (number : Nat) (st : SetSettings) (p : Blocks) : List (Nat × StartResult) × Blocks :=
  match st.mode with
  | .all => startEach report number st.shows p
  | .cycle =>
    let ptr : Nat := tget p.trigger.pointers number
    let id := st.shows.getD ptr 0
    let out := startReported report false (.showSet number) id p
    ([(id, out.1)], if out.1.accepted? then setPointer number ((ptr + 1) % st.shows.length) out.2 else out.2)

/-- Start a show set from a route or a schedule entry; an undefined one starts nothing (R121, R126, R156). -/
def startSetBy (report : Bool) (number : Nat) (p : Blocks) : Blocks :=
  match (tget p.store.settings.sets number : Option SetSettings) with
  | none => p
  | some st => (startDefinedSet report number st p).2

/-- End the slot that holds a show with reason STOPPED; nothing where none holds it (R68). -/
def stopHolding (id : Nat) (p : Blocks) : Blocks :=
  match slotHolding p id with
  | none => p
  | some k => endSlots [(k, .stopped)] p

/-- The slot that holds a show and is HELD (R60). -/
def heldSlot (p : Blocks) (id : Nat) : Option Nat :=
  match slotHolding p id with
  | none => none
  | some k => match slotOf p k with
    | none => none
    | some r => if r.state = .held then some k else none

/-- A refused STOP or RELEASE of a route: step CHECK (R121). -/
def refuseRoute (source : Nat) (rt : RouteSettings) (id : Nat) (why : Reason) (p : Blocks) : Blocks :=
  if rt.report then putNotice (.startRefused (.trigger source) (some id) why .check) p else p

/-- Carry out a source's route action (R120, R121). -/
def routeAction (source : Nat) (rt : RouteSettings) (p : Blocks) : Blocks :=
  match rt.action, rt.target with
  | .start, some id => (startReported rt.report false (.trigger source) id p).2
  | .startRestart, some id => (startReported rt.report true (.trigger source) id p).2
  | .startSet, some number => startSetBy rt.report number p
  | .stop, some id => if (showOf p id).isNone then refuseRoute source rt id .noShow p else stopHolding id p
  | .release, some id =>
    if (showOf p id).isNone then refuseRoute source rt id .noShow p
    else
      match heldSlot p id with
      | none => refuseRoute source rt id .notHeld p
      | some k => releaseHold k p
  | .note, _ => putNotice (.trigger source (tget p.trigger.sources source).direction .note none) p
  | _, none => p

/-- Change a source's working record. -/
def modSource (source : Nat) (f : SourceWork → SourceWork) (p : Blocks) : Blocks :=
  { p with trigger := { p.trigger with sources := tset p.trigger.sources source (f (tget p.trigger.sources source)) } }

/-- A source is taken: its flag is cleared, its rearm timer loaded, its action carried out to the end (R118, R119). -/
def takeSource (source : Nat) (p : Blocks) : Blocks :=
  let rt : RouteSettings := tget p.store.settings.routes source
  routeAction source rt (modSource source (fun w => { w with pending := false, rearm := loadTimer rt.rearm }) p)

/-- The source numbers. -/
def sourceNumbers : List Nat := List.range 64

/-- A source whose flag is set and whose route is enabled. -/
def sourceWaits (p : Blocks) (source : Nat) : Bool :=
  (tget p.trigger.sources source).pending && (tget p.store.settings.routes source).enabled

/-- At an opening: take each waiting source, in ascending order (R119). -/
def takePending (p : Blocks) : Blocks := sourceNumbers.foldl (fun q s => if sourceWaits q s then takeSource s q else q) p

/-- Clear every pending flag and make every rearm timer idle (R124, R130). -/
def clearSources (p : Blocks) : Blocks :=
  { p with trigger := { p.trigger with sources := tmap (fun w => { w with pending := false, rearm := none }) p.trigger.sources } }

end Sys2Proof.Machine
end

