-- ==== Sys2Proof/Machine/House.lean ====
section
/-! DEFINITION. The house and alarm unit: openings and closings, alarm entry, re-assertion, escalation and the end of the alarm (R160 to R169). -/

namespace Sys2Proof.Machine

/-! ### Opening and closing (R161 to R163) -/

/-- Change the house and alarm unit. -/
def modHouse (f : HouseUnit → HouseUnit) (p : Blocks) : Blocks := { p with house := f p.house }

/-- One autostart, carried to its end; a refusal is reported, except ALREADY (R162). -/
def autostartOne (id : Nat) (p : Blocks) : Blocks :=
  let out := startShow id .autostart false p
  reportRefusal (decide (out.1 ≠ .refused .already .check)) .autostart id out.1 out.2

/-- The stored shows whose autostart is set, in ascending order (R162). -/
def autostartShows (p : Blocks) : List Nat :=
  (List.range 64).filter (fun id => match showOf p id with
    | none => false
    | some sh => sh.autostart)

/-- The autostarts (step 2 of R162). -/
def autostarts (p : Blocks) : Blocks := (autostartShows p).foldl (fun q id => autostartOne id q) p

/-- An opening is carried out (R162). -/
def opening (cause : OpenCause) (p : Blocks) : Blocks :=
  takePending (autostarts (putNotice (.houseOpen cause) (modHouse (fun h => { h with mode := .opened }) p)))

/-- The slots that a closing ends (step 3 of R161). -/
def closedSlots (p : Blocks) : List Nat :=
  slotNumbers.filter (fun k => match slotShow p k with
    | none => false
    | some (r, sh) => decide (r.state = .pending) || decide (r.cls = .feature) || decide (r.cls = .notice) ||
        (decide (r.cls = .ambient) && !sh.keepClosed))

/-- A closing: none where it is refused, else the number of slots ended (R161). -/
def closing (w : WakeSet) (origin : CloseOrigin) (p : Blocks) : Option Nat × Blocks :=
  if !underAlarm p && w.trigger && wakePending p then (none, p)
  else
    let p1 := putNotice (.houseClosed w origin) (modHouse (fun h => { h with mode := .closed, wake := w }) p)
    if underAlarm p then (some 0, p1)
    else
      let out := endCounted ((closedSlots p1).map (fun k => (k, EndReason.closed))) p1
      (some out.1, out.2)

/-! ### The alarm (R164 to R169) -/

/-- The override show is started (R166). -/
def overrideStart (p : Blocks) : Blocks :=
  match p.store.settings.overrideShow with
  | none => p
  | some id =>
    match showOf p id with
    | none => putNotice (.startRefused .alarm (some id) .noShow .check) p
    | some sh =>
      if sh.cls ≠ .override then putNotice (.startRefused .alarm (some id) .badClass .check) p
      else if sh.cues.isEmpty then putNotice (.startRefused .alarm (some id) .emptyShow .check) p
      else (startShow id .alarm false p).2

/-- Every request waiting in the request queue is answered OVERTAKEN, in order, and the queue is emptied (R165, R175). -/
def overtake (p : Blocks) : Blocks :=
  { p with link := { p.link with
      replies := p.link.replies ++ p.link.requests.map (fun q => Reply.refused q.tag q.kind .overtaken)
      requests := [] } }

/-- The escalation timer loaded with the acknowledgement time, and the acknowledgement flag cleared (R165, R168). -/
def loadEscalation (p : Blocks) : Blocks :=
  modHouse (fun h => { h with acknowledged := false, escalation := some { ticks := p.store.settings.ackTime * 100, fresh := true } }) p

/-- The transaction queue is emptied and a HUSH is queued (R100, R105). -/
def hushNow (p : Blocks) : Blocks := offer hushTx (emptyQueue p)

/-- Alarm entry, in the order of R165. -/
def alarmEntry (p : Blocks) : Blocks :=
  loadEscalation (overrideStart (clearSources (hushNow (clearAll .alarm
    (putNotice (.alarm .entered) (overtake (modHouse (fun h => { h with alarmState := .alarm }) p)))))))

/-- The slot that holds the designated override show. -/
def overrideSlot (p : Blocks) : Option Nat :=
  match p.store.settings.overrideShow with
  | none => none
  | some id => slotHolding p id

/-- The override begins again in its slot, or is started (step 3 of R168). -/
def overrideAgain (p : Blocks) : Blocks :=
  match overrideSlot p with
  | some k => beginAgain k .alarm p
  | none => overrideStart p

/-- A re-assertion, in the order of R168. -/
def reassertion (p : Blocks) : Blocks :=
  putNotice (.alarm .reasserted) (overrideAgain (hushNow (loadEscalation (modHouse (fun h => { h with alarmState := .alarm }) p))))

/-- The alarm line's qualified state has become ASSERTED (R165, R168). -/
def assertion (p : Blocks) : Blocks :=
  match p.house.alarmState with
  | .normal => alarmEntry p
  | .alarm => p
  | .alarmHeld => reassertion p

/-- The alarm line's qualified state has become CLEAR from ASSERTED (R168). -/
def clearing (p : Blocks) : Blocks :=
  match p.house.alarmState with
  | .normal => p
  | .alarm => putNotice (.alarm .held) (modHouse (fun h => { h with alarmState := .alarmHeld }) p)
  | .alarmHeld => p

/-- What a newly qualified level of the alarm line does, by the state before it (R164). -/
def alarmQualified (before : Option Bool) (asserted : Bool) (p : Blocks) : Blocks :=
  if asserted then assertion p
  else
    match before with
    | some true => clearing p
    | some false => p
    | none => p

/-- The run of samples with this one counted: a sample that differs from those before it in the run restarts the count (R164). -/
def alarmRun (h : HouseUnit) (asserted : Bool) : Nat := if h.run ≠ 0 ∧ h.runLevel ≠ asserted then 1 else h.run + 1

/-- A sample of the alarm line (R164); none is taken while the settings load (R18). -/
def alarmSample (asserted : Bool) (p : Blocks) : Blocks :=
  if p.store.loading then p
  else if p.house.qualified = some asserted then modHouse (fun h => { h with run := 0 }) p
  else if alarmRun p.house asserted < 4 then
    modHouse (fun h => { h with run := alarmRun h asserted, runLevel := asserted }) p
  else alarmQualified p.house.qualified asserted (modHouse (fun h => { h with qualified := some asserted, run := 0 }) p)

/-- The escalation timer has reached 0 (R167). -/
def escalate (p : Blocks) : Blocks :=
  putNotice (.alarm .escalated) (modHouse (fun h => { h with escalation := none, alert := true }) p)

/-- The escalation timer takes a show tick; one loaded since the tick instant does not count it (R148, R167; log entry 33). -/
def escalationTick (p : Blocks) : Blocks :=
  match p.house.escalation with
  | none => p
  | some t =>
    if t.fresh then p
    else if t.ticks ≤ 1 then escalate p else modHouse (fun h => { h with escalation := some { t with ticks := t.ticks - 1 } }) p

/-- The end of the alarm by RESUME: the autostarts handed over, and the part after it (R169; log entry 15). -/
def resumeHouse (p : Blocks) : Nat × Blocks :=
  let p1 :=
    match overrideSlot p with
    | none => p
    | some k => endSlots [(k, .stopped)] p
  let p2 := modHouse (fun h => { h with acknowledged := false })
    (putNotice (.alarm .cleared) (modHouse (fun h => { h with alarmState := .normal }) p1))
  if p2.house.mode = .opened then ((autostartShows p2).length, autostarts p2) else (0, p2)

end Sys2Proof.Machine
end

