-- ==== Sys2Proof/Machine/Lines.lean ====
section
/-! DEFINITION. Events on trigger sources, samples of trigger lines and repeats (R111 to R114, R117). -/

namespace Sys2Proof.Machine

/-- A wake from a wake line opens a CLOSED house if TRIGGER is in its wake set (R163). -/
def lineWake (line : Nat) (p : Blocks) : Blocks := if p.house.wake.trigger then opening (.trigger line) p else p

/-- The source is a line with wake set, and the house is CLOSED (step 4 of R117). -/
def handsWake (p : Blocks) (source : Nat) : Bool :=
  decide (source < 32) && (tget p.store.settings.lines source).wake && decide (p.house.mode = .closed)

/-- A trigger source receives an event (R117). A line's event has a direction. -/
def sourceEvent (source : Nat) (dir : Option Direction) (p : Blocks) : Blocks :=
  if underAlarm p then p
  else if (tget p.trigger.sources source).rearm.isSome then p
  else
    let p1 := modSource source (fun w => { w with pending := true, direction := dir }) p
    if (tget p.store.settings.routes source).enabled ∧ p.house.mode = .opened then takeSource source p1
    else if handsWake p1 source then lineWake source p1
    else p1

/-- Change a line's working record. -/
def modLine (line : Nat) (f : LineWork → LineWork) (p : Blocks) : Blocks :=
  { p with trigger := { p.trigger with lines := tset p.trigger.lines line (f (tget p.trigger.lines line)) } }

/-- A TRIGGER notice of a line, where its report setting is yes (R114). -/
def reportLine (line : Nat) (dir : Direction) (cause : TriggerCause) (event : Bool) (p : Blocks) : Blocks :=
  if (tget p.store.settings.lines line).report then putNotice (.trigger line (some dir) cause (some event)) p else p

/-- A repeat event, and the countdown loaded with the repeat interval (R113). -/
def repeatNow (line : Nat) (p : Blocks) : Blocks :=
  let st : LineSettings := tget p.store.settings.lines line
  sourceEvent line (some .press) (reportLine line .press .repeated true
    (modLine line (fun w => { w with countdown := some (st.repeatInterval / 5) }) p))

/-- The repeat countdown at a sample that takes no release (R113). -/
def countRepeat (line : Nat) (p : Blocks) : Blocks :=
  match (tget p.trigger.lines line).countdown with
  | none => p
  | some c => if c ≤ 1 then repeatNow line p else modLine line (fun w => { w with countdown := some (c - 1) }) p

/-- Whether a qualified change is an event of the line (R112). -/
def Edge.takes : Edge → Direction → Bool
  | .rising, .press => true
  | .rising, .release => false
  | .falling, .press => false
  | .falling, .release => true
  | .both, _ => true

/-- The countdown after a qualified change: loaded at a press of a repeating RISING line, absent after a release (R113). -/
def countdownAfter (st : LineSettings) (dir : Direction) : Option Nat :=
  if dir = .press ∧ st.edge = .rising ∧ st.repeatDelay ≠ 0 then some (st.repeatDelay / 5) else none

/-- A qualified change is taken (R112, R113, R114). -/
def lineChange (line : Nat) (level : LineState) (p : Blocks) : Blocks :=
  let st : LineSettings := tget p.store.settings.lines line
  let dir : Direction := if level = .active then .press else .release
  let p1 := modLine line (fun w => { w with qualified := some level, stable := 0, countdown := countdownAfter st dir }) p
  let p2 := reportLine line dir .change (st.edge.takes dir) p1
  if st.edge.takes dir then sourceEvent line (some dir) p2 else p2

/-- The raw level read: active when it equals the active level (R110). -/
def rawLevel (st : LineSettings) (high : Bool) : LineState :=
  if (high = true ↔ st.activeLevel = .high) then .active else .inactive

/-- A sample of a trigger line (R111, R113); none of a disabled line, and none while the settings load (R18). -/
def lineSample (line : Nat) (high : Bool) (p : Blocks) : Blocks :=
  let st : LineSettings := tget p.store.settings.lines line
  let w : LineWork := tget p.trigger.lines line
  let raw := rawLevel st high
  if p.store.loading || !st.enabled then p
  else
    match w.qualified with
    | none => modLine line (fun w => { w with qualified := some raw, stable := 0 }) p
    | some q =>
      if q = raw then countRepeat line (modLine line (fun w => { w with stable := 0 }) p)
      else if w.stable + 1 < st.stableCount then countRepeat line (modLine line (fun w => { w with stable := w.stable + 1 }) p)
      else lineChange line raw p

/-- A repeat event of an enabled line by itself: its countdown is brought to its end (R113; log entry 4). -/
def repeatEvent (line : Nat) (p : Blocks) : Blocks :=
  if p.store.loading || !(tget p.store.settings.lines line).enabled then p
  else
    match (tget p.trigger.lines line).countdown with
    | none => p
    | some _ => repeatNow line p

end Sys2Proof.Machine
end

