-- ==== Sys2Proof/Machine/Level.lean ====
section
/-! DEFINITION. The level unit: readings, crossings, stuck detection, laws and their TRIMs (R131 to R144). -/

namespace Sys2Proof.Machine

/-- Change a gallery's working record. -/
def modGallery (g : Nat) (f : GalleryWork → GalleryWork) (p : Blocks) : Blocks :=
  { p with level := { p.level with galleries := tset p.level.galleries g (f (tget p.level.galleries g)) } }

/-- Change the working record of a channel's law. -/
def modLaw (ch : Nat) (f : LawWork → LawWork) (p : Blocks) : Blocks :=
  { p with level := { p.level with laws := tset p.level.laws ch (f (tget p.level.laws ch)) } }

/-- The law on a channel. -/
def lawOn (p : Blocks) (ch : Nat) : Option LawSettings := tget p.store.settings.laws ch

/-! ### Crossings and stuck detection (R133, R134) -/

/-- Crossings of a reading `r` after a reading `prev` (R133). -/
def crossings (g prev r : Nat) (p : Blocks) : Blocks :=
  let st : GallerySettings := tget p.store.settings.galleries g
  if st.high < r ∧ prev ≤ st.high then
    sourceEvent (32 + g) none (putNotice (.level .high g r) (modGallery g (fun w => { w with highFlag := true }) p))
  else if r < st.low ∧ st.low ≤ prev then
    sourceEvent (48 + g) none (putNotice (.level .low g r) (modGallery g (fun w => { w with lowFlag := true }) p))
  else p

/-- The equal-run counter after one more equal reading. -/
def runUp (n : Nat) : Nat := if n < 255 then n + 1 else 255

/-- Stuck detection of a reading `r` after a reading `prev` (R134). -/
def stuckDetection (g prev r : Nat) (p : Blocks) : Blocks :=
  let st : GallerySettings := tget p.store.settings.galleries g
  let w : GalleryWork := tget p.level.galleries g
  if r = prev then
    if st.stuckCount ≠ 0 ∧ st.stuckCount ≤ runUp w.equalRun ∧ w.runReported = false then
      putNotice (.level .stuck g r)
        (modGallery g (fun w => { w with equalRun := runUp w.equalRun, stuckFlag := true, runReported := true }) p)
    else modGallery g (fun w => { w with equalRun := runUp w.equalRun }) p
  else
    modGallery g (fun w => { w with equalRun := 0, runReported := false })
      (if w.runReported then putNotice (.level .moving g r) p else p)

/-! ### The curve (R139) -/

/-- The gain between two points: the lower point's gain, or the straight line rounded to the nearest, a half going to the greater (R139). -/
def gainBetween (interpolate : Bool) (a b : CurvePoint) (r : Nat) : Nat :=
  if interpolate then
    let width := b.level - a.level
    (2 * (a.gain * (width - (r - a.level)) + b.gain * (r - a.level)) + width) / (2 * width)
  else a.gain

/-- The curve's value at a reading at or above the first point `a` of what is left of the curve. -/
def curveFrom (interpolate : Bool) (a : CurvePoint) : List CurvePoint → Nat → Nat
  | [], _ => a.gain
  | b :: rest, r => if r < b.level then gainBetween interpolate a b r else curveFrom interpolate b rest r

/-- The target gain of a law at a reading (R139). -/
def targetGain (law : LawSettings) (r : Nat) : Nat :=
  match law.curve with
  | [] => 0
  | a :: rest => if r < a.level then a.gain else curveFrom law.interpolate a rest r

/-- The level of the last point of a curve. -/
def lastLevel (law : LawSettings) : Nat :=
  match law.curve.getLast? with
  | none => 0
  | some q => q.level

/-- The gain of the last point of a curve. -/
def lastGain (law : LawSettings) : Nat :=
  match law.curve.getLast? with
  | none => 0
  | some q => q.gain

/-- The first point of a curve. -/
def firstPoint (law : LawSettings) : CurvePoint := law.curve.headD default

/-! ### Moving a law (R140 to R142) -/

/-- A rate's step for one reading: a tenth, rounded up (R140). -/
def stepOf (rate : Nat) : Nat := (rate + 9) / 10

/-- One step from a gain toward the target (R140). -/
def stepToward (law : LawSettings) (target current : Nat) : Nat :=
  if current < target then
    if target - current ≤ stepOf law.upRate then target else current + stepOf law.upRate
  else if target < current then
    if current - target ≤ stepOf law.downRate then target else current - stepOf law.downRate
  else current

/-- The current gain of a law that is not frozen after a reading (R140). -/
def movedGain (law : LawSettings) (r target : Nat) (current : Option Nat) : Nat :=
  match current with
  | none => target
  | some c =>
    if law.jumpHigh ∧ lastLevel law < r then lastGain law
    else if law.jumpLow ∧ r + law.hysteresis < (firstPoint law).level then (firstPoint law).gain
    else stepToward law target c

/-- The current gain differs enough from the last sent gain (R142). -/
def trimDue (current target : Nat) (lastSent : Option Nat) : Bool :=
  match lastSent with
  | none => true
  | some s => decide (s + 2 ≤ current) || decide (current + 2 ≤ s) || (decide (current = target) && decide (current ≠ s))

/-- The class of a TRIM: that of the channel's top entry, or AMBIENT (R142). -/
def trimClass (p : Blocks) (ch : Nat) : ShowClass :=
  match topEntry p ch with
  | none => .ambient
  | some e => e.cls

/-- The channel's node is PRESENT and no TRIM for the channel is outstanding (R142). -/
def trimMayGo (p : Blocks) (ch : Nat) : Bool :=
  match channelEntry p ch with
  | none => false
  | some e => nodePresent p e.node && !trimOutstanding p ch

/-- Offer a TRIM of a gain on a channel (R142). -/
def offerTrim (ch gain : Nat) (p : Blocks) : Blocks := offerChannel ch (.trim gain) (trimClass p ch) none none none p

/-- A law that is not frozen moves and sends its TRIM (R140, R142). -/
def moveLaw (ch r target : Nat) (law : LawSettings) (w : LawWork) (p : Blocks) : Blocks :=
  let current := movedGain law r target w.current
  let p1 := modLaw ch (fun _ => { w with target := some target, current := some current, frozen := false }) p
  if trimDue current target w.lastSent && trimMayGo p1 ch then offerTrim ch current p1 else p1

/-- One law at a reading of its source gallery (R139 to R142). -/
def readLaw (ch r : Nat) (law : LawSettings) (p : Blocks) : Blocks :=
  let target := targetGain law r
  if lawFrozen p law.gallery then modLaw ch (fun w => { w with target := some target, frozen := true }) p
  else moveLaw ch r target law (tget p.level.laws ch) p

/-- The laws that listen to a gallery, in ascending channel order (step 4 of R132). -/
def readLaws (g r : Nat) (p : Blocks) : Blocks :=
  channelNumbers.foldl (fun q ch => match lawOn q ch with
    | none => q
    | some law => if law.gallery = g then readLaw ch r law q else q) p

/-- Steps 1 and 2 of a reading (R132). -/
def GalleryWork.read (w : GalleryWork) (r : Nat) : GalleryWork :=
  { w with previous := w.sample, sample := some r, minimum := min w.minimum r, maximum := max w.maximum r }

/-- A reading of a gallery's level input (R132); none while the settings load (R18). -/
def levelSample (g r : Nat) (p : Blocks) : Blocks :=
  if p.store.loading then p
  else
    let p1 := modGallery g (fun w => w.read r) p
    match (tget p1.level.galleries g).previous with
    | none => readLaws g r p1
    | some prev => readLaws g r (stuckDetection g prev r (crossings g prev r p1))

/-! ### Outcomes and changes of laws (R104, R138, R143) -/

/-- A node has acknowledged a TRIM (R143). -/
def trimAcked (ch gain : Nat) (p : Blocks) : Blocks :=
  if (lawOn p ch).isSome then modLaw ch (fun w => { w with lastSent := some gain }) p else p

/-- The last sent gain of a channel's law becomes absent (R104, R138, R143). -/
def forgetSent (ch : Nat) (p : Blocks) : Blocks := modLaw ch (fun w => { w with lastSent := none }) p

/-- Remove the law on a channel (R138, R144). -/
def dropLaw (ch : Nat) (p : Blocks) : Blocks :=
  modLaw ch (fun _ => LawWork.initial)
    (setSettings { p.store.settings with laws := tset p.store.settings.laws ch none } p)

/-- The level unit at a RESET request (R146). -/
def resetLevel (p : Blocks) : Blocks :=
  { p with level := {
      galleries := tmap (fun w => { w with
        highFlag := false, lowFlag := false, stuckFlag := false, equalRun := 0, runReported := false, minimum := 1023, maximum := 0 }) p.level.galleries
      laws := tmap (fun w => { w with current := none, lastSent := none }) p.level.laws } }

end Sys2Proof.Machine
end

