-- ==== Sys2Proof/Machine/Time.lean ====
section
/-! DEFINITION. The timebase, the show tick and its takers, the day clock and the schedule (R103, R147 to R156). -/

namespace Sys2Proof.Machine

/-- Change the timebase and the day clock. -/
def modTime (f : TimeUnit → TimeUnit) (p : Blocks) : Blocks := { p with time := f p.time }

/-! ### The timebase (R147, R149 to R151) -/

/-- The nominal rate; 25 stands where none is set and none is used. -/
def nominalRate (p : Blocks) : Nat := p.store.settings.rate.getD 25

/-- The place of instant `n` of the grid, in hundredths of a nanosecond: the latest good pulse, plus the distance of its place beyond that pulse in pulses times the last good interval (R147; log entry 6). -/
def gridInstant (rate : Nat) (g : PulseGrid) (n : Nat) : Int :=
  100 * (g.goodTime : Int) + ((n : Int) * rate - 100 * g.goodNumber) * g.interval

/-- The instant of the next tick, in hundredths of a nanosecond: on the grid while LOCKED, else 10 ms after the tick before (R147). -/
def nextTick (p : Blocks) : Int :=
  match p.time.state, p.time.grid with
  | .locked, some g => gridInstant (nominalRate p) g g.nextIndex
  | _, _ => p.time.lastTick + 1000000000

/-- The grid's next instant after one has been taken. -/
def stepGrid : Option PulseGrid → Option PulseGrid
  | none => none
  | some g => some { g with nextIndex := g.nextIndex + 1 }

/-- A pulse `t` after a pulse at `q` is good: the time between them is within a tenth of the nominal period (R149). -/
def pulseGood (rate q t : Nat) : Bool := decide (900000000 ≤ (t - q) * rate) && decide ((t - q) * rate ≤ 1100000000)

/-- The first instant of a grid that begins at `t` with interval `i` that is not earlier than `due` (R149). -/
def firstInstant (rate t i : Nat) (due : Int) : Nat :=
  let late := (due - 100 * (t : Int)).toNat
  (late + rate * i - 1) / (rate * i)

/-- The time unit after a pulse that follows a pulse at `q`, and whether it has just locked (R149). -/
def pulseAfter (rate q t : Nat) (u : TimeUnit) : TimeUnit × Bool :=
  match u.state, u.grid with
  | .locked, some g =>
    if pulseGood rate q t then
      ({ u with lastPulse := some t,
                grid := some { g with latest := g.latest + 1, goodTime := t, goodNumber := g.latest + 1, interval := t - q } }, false)
    else ({ u with lastPulse := some t, grid := some { g with latest := g.latest + 1 } }, false)
  | _, _ =>
    if pulseGood rate q t then
      if u.goodCount + 1 < 8 then ({ u with lastPulse := some t, goodCount := u.goodCount + 1 }, false)
      else
        let g : PulseGrid :=
          { latest := 0, goodTime := t, goodNumber := 0, interval := t - q
            nextIndex := firstInstant rate t (t - q) (u.lastTick + 1000000000) }
        ({ u with lastPulse := some t, goodCount := 8, state := .locked, grid := some g }, true)
    else ({ u with lastPulse := some t, goodCount := 0 }, false)

/-- A pulse on the sync line (R149). It is disregarded while the source is INTERNAL, and while the settings load (R18). -/
def syncPulse (t : Nat) (p : Blocks) : Blocks :=
  if p.store.loading || decide (p.store.settings.source = .internal) then p
  else
    match p.time.lastPulse with
    | none => modTime (fun u => { u with lastPulse := some t }) p
    | some q =>
      let out := pulseAfter (nominalRate p) q t p.time
      let p1 := modTime (fun _ => out.1) p
      if out.2 then putNotice (.sync true (nominalRate p)) p1 else p1

/-- The time unit with its state by the source and no reference pulse (R151, R159). -/
def TimeUnit.afresh (source : TimeSource) (u : TimeUnit) : TimeUnit :=
  { u with
    state := match source with
      | .internal => .internal
      | .sync => .syncLost
    goodCount := 0, lastPulse := none, grid := none }

/-- Three nominal periods without a pulse while LOCKED (R150). -/
def syncLoss (p : Blocks) : Blocks :=
  match p.time.state with
  | .internal => p
  | .syncLost => p
  | .locked => putNotice (.sync false (nominalRate p)) (modTime (fun u => u.afresh .sync) p)

/-! ### The schedule (R155, R156) -/

/-- An opening by a schedule entry (R163). -/
def scheduleOpen (e : Nat) (p : Blocks) : Blocks :=
  if p.house.mode = .closed ∧ p.house.wake.schedule then opening (.schedule e) p else p

/-- A closing by a schedule entry (R161). -/
def scheduleClose (e : Nat) (w : WakeSet) (p : Blocks) : Blocks :=
  match closing w (.schedule e) p with
  | (none, q) => putNotice (.closeRefused e .wakePending) q
  | (some _, q) => q

/-- A START, START-SET or STOP entry in an OPEN house (R156). -/
def entryInOpen (e : Nat) (action : EntryAction) (target : Option Nat) (p : Blocks) : Blocks :=
  match action, target with
  | .start, some id => (startReported true false (.schedule e) id p).2
  | .startSet, some number => startSetBy true number p
  | .stop, some id => stopHolding id p
  | _, _ => p

/-- A START or START-SET entry under alarm (R156). -/
def entryUnderAlarm (e : Nat) (action : EntryAction) (target : Option Nat) (p : Blocks) : Blocks :=
  match action with
  | .start => putNotice (.startRefused (.schedule e) target .alarm .check) p
  | .startSet => putNotice (.startRefused (.schedule e) none .alarm .check) p
  | .stop => p
  | .openHouse => p
  | .closeHouse => p

/-- A firing entry's action (R156). -/
def entryAction (e : Nat) (p : Blocks) : Blocks :=
  let en : ScheduleEntry := tget p.store.settings.entries e
  match en.action with
  | .closeHouse => scheduleClose e (en.wake.getD { schedule := false, trigger := false }) p
  | .openHouse => if underAlarm p then p else scheduleOpen e p
  | action =>
    if underAlarm p then entryUnderAlarm e action en.target p
    else if p.house.mode = .opened then entryInOpen e action en.target p
    else p

/-- The entries that fire at a second of a weekday, in ascending order (R155). -/
def firingEntries (p : Blocks) (second weekday : Nat) : List Nat :=
  (List.range 96).filter (fun e =>
    let en : ScheduleEntry := tget p.store.settings.entries e
    en.enabled && decide (en.second = second) && en.mask.getLsbD weekday)

/-- Fire the entries of the clock's second, each carried to its end (R155). -/
def fireEntries (p : Blocks) : Blocks :=
  (firingEntries p p.time.second p.time.weekday).foldl (fun q e => entryAction e q) p

/-! ### The day clock (R152) -/

/-- The clock one second on, with its tick fraction 0 (R152). -/
def TimeUnit.nextSecond (u : TimeUnit) : TimeUnit :=
  if u.second < 86399 then { u with second := u.second + 1, fraction := 0 }
  else { u with second := 0, weekday := if u.weekday < 6 then u.weekday + 1 else 0, fraction := 0 }

/-- The day clock advances one second; an advance of a valid clock fires the schedule, except while the settings load (R152, R155). -/
def dayAdvance (p : Blocks) : Blocks :=
  let p1 := modTime TimeUnit.nextSecond p
  if p1.time.valid && !p1.store.loading then fireEntries p1 else p1

/-- The day clock takes a show tick (R152). -/
def dayTick (p : Blocks) : Blocks :=
  if p.time.fraction + 1 < 100 then modTime (fun u => { u with fraction := u.fraction + 1 }) p else dayAdvance p

/-! ### The show tick (R148) -/

/-- The polling rounds take a show tick: one round every 100 (R103). -/
def pollTick (p : Blocks) : Blocks :=
  if p.bus.pollTicks + 1 < 100 then { p with bus := { p.bus with pollTicks := p.bus.pollTicks + 1 } }
  else pollingRound { p with bus := { p.bus with pollTicks := 0 } }

/-- Every rest timer changed by `f`. -/
def modRest (f : Option Timer → Option Timer) (p : Blocks) : Blocks :=
  { p with runner := { p.runner with rest := tmap f p.runner.rest } }

/-- Every rearm timer changed by `f`. -/
def modRearm (f : Option Timer → Option Timer) (p : Blocks) : Blocks :=
  { p with trigger := { p.trigger with sources := tmap (fun w => { w with rearm := f w.rearm }) p.trigger.sources } }

/-- Every slot that is not FREE changed by `f`. -/
def modSlots (f : SlotRec → SlotRec) (p : Blocks) : Blocks :=
  { p with runner := { p.runner with slots := tmap (fun o => o.map f) p.runner.slots } }

/-- Every taker, in the order the model takes those that the command does not name (log entry 5). -/
def allTakers : List TickTaker :=
  slotNumbers.map TickTaker.slot ++ [.restTimers, .rearmTimers, .polling, .escalation, .dayClock]

/-- The takers that a tick instant hands its tick to: while the settings load, the day clock alone (R148). -/
def takersNow (p : Blocks) : List TickTaker := if p.store.loading then [.dayClock] else allTakers

/-- A tick instant: its time is recorded, the tick is in the hand of each taker, and every slot, rest timer, rearm timer and the escalation timer count from this tick on (R54, R147, R148). -/
def tickInstant (p : Blocks) : Blocks :=
  modSlots (fun r => { r with began := false }) (modRest ageTimer (modRearm ageTimer
    (modHouse (fun h => { h with escalation := ageTimer h.escalation })
      (modTime (fun u => { u with lastTick := nextTick p, grid := stepGrid u.grid, inHand := takersNow p }) p))))

/-- One taker takes the tick. -/
def takeTick (t : TickTaker) (p : Blocks) : Blocks :=
  match t with
  | .slot k => slotTick k p
  | .restTimers => modRest tickTimer p
  | .rearmTimers => modRearm tickTimer p
  | .polling => pollTick p
  | .escalation => escalationTick p
  | .dayClock => dayTick p

/-- A taker no longer has the tick in hand. -/
def putDown (t : TickTaker) (p : Blocks) : Blocks := modTime (fun u => { u with inHand := u.inHand.filter (fun x => decide (x ≠ t)) }) p

end Sys2Proof.Machine
end

