-- ==== Sys2Proof/Machine/Nodes.lean ====
section
/-! DEFINITION. The transaction on the bus: a node's reply, its check and its outcome, failed attempts, a node's fall and its return (R27, R87, R95 to R98, R100, R102, R104, R184). -/

namespace Sys2Proof.Machine

/-- A node's answer (R87). -/
inductive NodeAnswer where
  | ack
  | ready
  | nak (why : NakReason)
  | status
  deriving DecidableEq, Repr, Inhabited

/-- A reply frame of a node (R184). -/
structure NodeReply where
  node : Nat
  toggle : Bool
  answer : NodeAnswer
  deriving DecidableEq, Repr, Inhabited

/-- The reason byte of a NAK (R184). -/
def nakReasonOf (b : Byte) : Option NakReason :=
  if b = 0 then some .noMedia else if b = 1 then some .busy else if b = 2 then some .badRequest else none

/-- The answer of a reply with the bytes between the flags byte and the check value (R184; log entry 21). -/
def answerOf (flags : Byte) (more : List Byte) : Option NodeAnswer :=
  match flags &&& 3, more with
  | 0, [] => some .ack
  | 1, [] => some .ready
  | 2, [b] => (nakReasonOf b).map NodeAnswer.nak
  | 3, [] => some .status
  | _, _ => none

/-- Split bytes into all but the last two, and the last two. -/
def splitCheck (bytes : List Byte) : List Byte × List Byte := (bytes.take (bytes.length - 2), bytes.drop (bytes.length - 2))

/-- The reply frame that bytes hold, if they begin with the start byte and their check value agrees with them (R184). Bytes that do not begin with it are a reply that fails, a choice of the model (log entry 36). -/
def parseReply (bytes : List Byte) : Option NodeReply :=
  match bytes with
  | 0x5A#8 :: rest =>
    match splitCheck rest with
    | (node :: flags :: more, check) =>
      if check = crcBytes (node :: flags :: more) then
        (answerOf flags more).map (fun a => { node := node.toNat, toggle := flags.msb, answer := a })
      else none
    | _ => none
  | _ => none

/-- The good answer of a kind (R89); a HUSH has none. -/
def TxKind.goodAnswer : TxKind → Option NodeAnswer
  | .prepare _ => some .ready
  | .play _ _ _ _ _ => some .ack
  | .scene _ _ => some .ack
  | .level _ _ => some .ack
  | .pulse _ => some .ack
  | .pause => some .ack
  | .stop => some .ack
  | .trim _ => some .ack
  | .poll => some .status
  | .hush => none

/-! ### Handing on a success (R27, R96, R104) -/

/-- The offset of the cue that set a last state (R26). -/
def cueOffset (p : Blocks) (id ci : Nat) : Nat :=
  match showOf p id with
  | none => 0
  | some sh => match sh.cues[ci]? with
    | none => 0
    | some c => c.offset

/-- The last state after the acknowledgement of a cue (R26). -/
def lastAfter (kind : TxKind) (offset : Nat) (last : Option LastState) : Option LastState :=
  match kind with
  | .play clip lvl loop _ _ => some (.play clip lvl loop offset)
  | .scene scene fade => some (.scene scene fade)
  | .level lvl fade => some (.level lvl fade)
  | .stop => none
  | _ => last

/-- Update the last state of the owner entry of an acknowledged cue; dropped when that entry has been removed (R27). -/
def updateLast (t : Transaction) (p : Blocks) : Blocks :=
  match t.channel, t.cueIndex, t.owner with
  | some ch, some ci, some uid =>
    setOwners ch ((ownersOf p ch).map (fun e =>
      if e.uid = uid then { e with last := lastAfter t.kind (cueOffset p e.showId ci) e.last } else e)) p
  | _, _, _ => p

/-- The mapped channels of a node, ascending. -/
def channelsOfNode (p : Blocks) (n : Nat) : List Nat :=
  channelNumbers.filter (fun ch => match channelEntry p ch with
    | none => false
    | some e => decide (e.node = n))

/-- The restoration of a channel whose node has returned (R104). -/
def restoreReturned (ch : Nat) (p : Blocks) : Blocks :=
  match topEntry p ch with
  | none => p
  | some e => if runsOrHolds p e.slot then restoreChannel e.slot ch p else p

/-- A node returns (R104): PRESENT, NODE (PRESENT), restorations, and the level unit is told (R143). -/
def nodeReturns (n : Nat) (p : Blocks) : Blocks :=
  let p1 := putNotice (.node .present n) (setNode n { nodeRecord p n with presence := .present } p)
  let p2 := (channelsOfNode p1 n).foldl (fun q ch => restoreReturned ch q) p1
  (channelsOfNode p2 n).foldl (fun q ch => forgetSent ch q) p2

/-- Hand on a good answer (R96). -/
def handSuccess (t : Transaction) (wasAbsent : Bool) (p : Blocks) : Blocks :=
  match t.kind with
  | .prepare clip => readySlot (t.origin.getD 16) (t.channel.getD 128) clip p
  | .trim gain => trimAcked (t.channel.getD 128) gain p
  | .poll => if wasAbsent then nodeReturns t.node p else p
  | _ => updateLast t p

/-- The node record after a success (R96). -/
def NodeRecord.succeeded (r : NodeRecord) (poll : Bool) : NodeRecord :=
  { r with failures := 0, lastNak := none, toggle := if poll then false else !r.toggle }

/-- The node record after a refusal (R97). -/
def NodeRecord.refusing (r : NodeRecord) (poll : Bool) (why : NakReason) : NodeRecord :=
  { r with failures := 0, lastNak := some why, toggle := if poll then r.toggle else !r.toggle }

/-- The node record after a failure (R98). -/
def NodeRecord.failing (r : NodeRecord) : NodeRecord := { r with failures := if r.failures < 3 then r.failures + 1 else 3 }

/-- A success (R96). -/
def busSuccess (t : Transaction) (p : Blocks) : Blocks :=
  let r := nodeRecord p t.node
  handSuccess t (decide (r.presence = .absent)) (setNode t.node (r.succeeded (decide (t.kind = .poll))) p)

/-- A refusal (R97). -/
def busRefusal (t : Transaction) (why : NakReason) (p : Blocks) : Blocks :=
  reportCueLost t (.refused why) (setNode t.node ((nodeRecord p t.node).refusing (decide (t.kind = .poll)) why) p)

/-! ### Failures (R95, R98, R102) -/

/-- Discarded at a node's fall (R102). -/
def discardedAt (n : Nat) (t : Transaction) : Bool := decide (t.node = n) && decide (t.kind ≠ .poll)

/-- Count a discarded cue (R102). -/
def countDiscarded (t : Transaction) (p : Blocks) : Blocks :=
  match t.origin, t.cueIndex with
  | some k, some _ => addSkipped k p
  | _, _ => p

/-- A node becomes ABSENT (R102). -/
def nodeFalls (n : Nat) (p : Blocks) : Blocks :=
  let p1 := putNotice (.node .absent n) (setNode n { nodeRecord p n with presence := .absent } p)
  (p1.bus.queue.filter (discardedAt n)).foldl (fun q t => countDiscarded t q)
    { p1 with bus := { p1.bus with queue := p1.bus.queue.filter (fun t => !discardedAt n t) } }

/-- A failure after the last attempt (R98). -/
def busFailure (t : Transaction) (p : Blocks) : Blocks :=
  let r := nodeRecord p t.node
  let p1 := reportCueLost t .noAnswer (setNode t.node r.failing p)
  if r.presence = .present ∧ r.failing.failures = 3 then nodeFalls t.node p1 else p1

/-- The transaction on the bus has completed: the bus is free and takes the head (R94). -/
def freeBus (p : Blocks) : Blocks := takeHead { p with bus := { p.bus with job := none } }

/-- An attempt has failed: another attempt of the same transaction, or its failure (R95). -/
def attemptFailed (j : BusJob) (p : Blocks) : Blocks :=
  if j.tx.attempts ≤ j.retries then
    { p with bus := { p.bus with job := some { j with tx := { j.tx with attempts := j.tx.attempts + 1 } } } }
  else freeBus (busFailure j.tx p)

/-- A reply that passes its check for a transaction: its node and its toggle are the transaction's (R184). -/
def replyFits (t : Transaction) (r : NodeReply) : Bool := decide (r.node = t.node) && decide (t.toggle = some r.toggle)

/-- A reply to the transaction on the bus ends its attempt (R95). -/
def replyTo (j : BusJob) (reply : Option NodeReply) (p : Blocks) : Blocks :=
  match reply with
  | none => attemptFailed j p
  | some r =>
    if replyFits j.tx r then
      match r.answer with
      | .nak why => freeBus (busRefusal j.tx why p)
      | a => if j.tx.kind.goodAnswer = some a then freeBus (busSuccess j.tx p) else attemptFailed j p
    else attemptFailed j p

/-- Bytes arrive from a node (R95, R184). They are disregarded when no transaction awaits an answer; a HUSH awaits none. -/
def nodeReply (bytes : List Byte) (p : Blocks) : Blocks :=
  match p.bus.job with
  | none => p
  | some j => if j.tx.kind = .hush then p else replyTo j (parseReply bytes) p

/-- The reply timeout expires (R95). -/
def replyTimeout (p : Blocks) : Blocks :=
  match p.bus.job with
  | none => p
  | some j => if j.tx.kind = .hush then p else attemptFailed j p

/-- The end of sending a HUSH (R95, R100). -/
def hushSent (p : Blocks) : Blocks :=
  match p.bus.job with
  | none => p
  | some j => if j.tx.kind = .hush then freeBus p else p

end Sys2Proof.Machine
end

