-- ==== Sys2Proof/Machine/Operands.lean ====
section
/-! DEFINITION. The operand forms of the requests: what a number a frame carries stands for, and the range checks of each request's own rule (R2, R3, R6, R7, R9, R21, R110, R115, R116, R122, R125, R137, R138, R154, R157). Each answers none where the rule refuses BAD-FIELD. -/

namespace Sys2Proof.Machine

/-! ### Names and yes/no (R183) -/

/-- A value chosen from a list of names: its position in that list (R183). -/
def pick {α : Type} (names : List α) (code : Nat) : Option α := names[code]?

/-- A yes or no: 1 or 0 (R183). -/
def yesNo (n : Nat) : Option Bool := pick [false, true] n

/-- A class, in the order of R2. -/
def classOf (n : Nat) : Option ShowClass := pick [.ambient, .feature, .notice, .override] n

/-- A preemption policy, in the order of R2. -/
def preemptOf (n : Nat) : Option PreemptPolicy := pick [.resume, .restart, .yield] n

/-- A conflict policy, in the order of R2. -/
def conflictOf (n : Nat) : Option ConflictPolicy := pick [.wait, .refuse] n

/-- A prime mode, in the order of R2. -/
def primeModeOf (n : Nat) : Option PrimeMode := pick [.strict, .lenient] n

/-- A channel kind, in the order of R21. -/
def kindOf (n : Nat) : Option ChannelKind := pick [.video, .audio, .light, .effect] n

/-- An active level, in the order of R110. -/
def activeLevelOf (n : Nat) : Option ActiveLevel := pick [.high, .low] n

/-- An edge setting, in the order of R110. -/
def edgeOf (n : Nat) : Option Edge := pick [.rising, .falling, .both] n

/-- A route action, in the order of R116. -/
def routeActionOf (n : Nat) : Option RouteAction := pick [.start, .startRestart, .startSet, .stop, .release, .note] n

/-- A set mode, in the order of R125. -/
def setModeOf (n : Nat) : Option SetMode := pick [.cycle, .all] n

/-- A timebase source, in the order of R147. -/
def timeSourceOf (n : Nat) : Option TimeSource := pick [.internal, .sync] n

/-- An entry action, in the order of R154. -/
def entryActionOf (n : Nat) : Option EntryAction := pick [.start, .startSet, .stop, .openHouse, .closeHouse] n

/-- A number within a range, both ends included. -/
def within (low high n : Nat) : Option Nat := if low ≤ n ∧ n ≤ high then some n else none

/-- An optional field whose value is at most `high`. -/
def optWithin (high : Nat) : OptField → Option (Option Nat)
  | .absent => some none
  | .present v => if v ≤ high then some (some v) else none
  | .malformed => none

/-- A target that must be there, at most `high`. -/
def targetWithin (high : Nat) : OptField → Option (Option Nat)
  | .absent => none
  | .present v => if v ≤ high then some (some v) else none
  | .malformed => none

/-- A wake set as carried (R154, R161). -/
def wakeOf (w : WakeReq) : Option WakeSet := do
  let schedule ← yesNo w.schedule
  let trigger ← yesNo w.trigger
  some { schedule := schedule, trigger := trigger }

/-! ### Shows and cues (R2, R3, R6, R7, R9) -/

/-- A label of at most 12 printable characters (R2). -/
def labelOk (label : List Nat) : Bool := decide (label.length ≤ 12) && label.all (fun c => decide (32 ≤ c) && decide (c ≤ 126))

/-- A channel list of 1 to 24 distinct, mapped channels (R2, R6). -/
def channelListOk (st : Settings) (channels : List Nat) : Bool :=
  decide (1 ≤ channels.length) && decide (channels.length ≤ 24) && decide channels.Nodup &&
    channels.all (fun ch => (tget st.channels ch : Option ChannelEntry).isSome)

/-- The combinations of R6. -/
def combinationsOk (h : ShowHeader) : Bool :=
  ((!h.autostart && !h.keepClosed) || decide (h.cls = .ambient)) && (!h.tied || h.leader.isSome)

/-- The header of a DEFINE-SHOW with every field in its range (R2, R6). -/
def headerOf (st : Settings) (r : DefineShowReq) : Option ShowHeader := do
  let cls ← classOf r.cls
  let length ← within 1 720000 r.length
  let plays ← within 0 255 r.plays
  let preempt ← preemptOf r.preempt
  let conflict ← conflictOf r.conflict
  let primeMode ← primeModeOf r.primeMode
  let primeTimeout ← within 1 100 r.primeTimeout
  let rest ← within 0 3600 r.rest
  let leader ← optWithin 63 r.leader
  let tied ← yesNo r.tied
  let autostart ← yesNo r.autostart
  let keepClosed ← yesNo r.keepClosed
  let h : ShowHeader :=
    { label := r.label, cls := cls, channels := r.channels, length := length, plays := plays, preempt := preempt,
      conflict := conflict, primeMode := primeMode, primeTimeout := primeTimeout, rest := rest, leader := leader,
      tied := tied, autostart := autostart, keepClosed := keepClosed }
  if labelOk r.label && channelListOk st r.channels && combinationsOk h then some h else none

/-- Some stored show names `id` as its leader (R7). -/
def isLeader (st : Settings) (id : Nat) : Bool := !(followersOf st id).isEmpty

/-- The leader named by a show being written as `id` may be its leader (R7). -/
def leaderOk (st : Settings) (id : Nat) (cls : ShowClass) (leader : Nat) : Bool :=
  decide (leader ≠ id) && decide (cls ≠ .override) && !isLeader st id &&
    (match (tget st.shows leader : Option ShowRecord) with
    | none => true
    | some sh => sh.leader.isNone && decide (sh.cls ≠ .override))

/-- The checks of R7. A show being replaced still counts by what it holds before the request. -/
def leadersOk (st : Settings) (id : Nat) (h : ShowHeader) : Bool :=
  (match h.leader with
  | none => true
  | some l => leaderOk st id h.cls l) && !(decide (h.cls = .override) && isLeader st id)

/-- A cue record's action with its fields in their ranges, before the checks of its channel (R3, R183). -/
def cueActionOf (c : RawCue) : Option CueAction :=
  match c.action with
  | 0 => do
    let clip ← within 1 65535 c.word
    let lvl ← within 0 100 c.byte7
    let loop ← yesNo c.byte8
    some (.play c.index clip lvl loop)
  | 1 => do
    let scene ← within 1 999 c.word
    let fade ← within 0 6000 (c.byte7 * 256 + c.byte8)
    some (.scene c.index scene fade)
  | 2 => do
    let fade ← within 0 6000 c.word
    let lvl ← within 0 100 c.byte7
    some (.level c.index lvl fade)
  | 3 => do
    let duration ← within 1 6000 c.word
    some (.pulse c.index duration)
  | 4 => some (.stop c.index)
  | 5 => do
    let timeout ← within 0 3600 c.word
    some (.hold timeout)
  | 6 => do
    let number ← within 0 255 c.byte7
    some (.mark number)
  | _ => none

/-- The channel index of an action that has one. -/
def CueAction.index? : CueAction → Option Nat
  | .play i _ _ _ => some i
  | .scene i _ _ => some i
  | .level i _ _ => some i
  | .pulse i _ => some i
  | .stop i => some i
  | .hold _ => none
  | .mark _ => none

/-- The action suits the kind of channel (R3). -/
def CueAction.suits : CueAction → ChannelKind → Bool
  | .play _ _ _ _, k => decide (k = .video) || decide (k = .audio)
  | .scene _ _ _, k => decide (k = .light)
  | .level _ _ _, k => decide (k = .audio) || decide (k = .light)
  | .pulse _ _, k => decide (k = .effect)
  | .stop _, _ => true
  | .hold _, _ => false
  | .mark _, _ => false

/-- The channel that an action names exists in the show's list and suits it (R9). -/
def channelFits (st : Settings) (sh : ShowRecord) (a : CueAction) : Bool :=
  match a.index? with
  | none => true
  | some i =>
    match sh.channels[i]? with
    | none => false
    | some ch => match (tget st.channels ch : Option ChannelEntry) with
      | none => false
      | some e => a.suits e.kind

/-- One cue of a frame, for a show whose last cue so far stands at offset `least` (R9). -/
def cueOf (st : Settings) (sh : ShowRecord) (least : Nat) (c : RawCue) : Option Cue := do
  let a ← cueActionOf c
  if channelFits st sh a && decide (c.offset ≤ sh.length) && decide (least ≤ c.offset) then some { offset := c.offset, action := a } else none

/-- The cues of a frame, each checked after the ones before it (R9). -/
def cuesOf (st : Settings) (sh : ShowRecord) : Nat → List RawCue → Option (List Cue)
  | _, [] => some []
  | least, c :: cs => do
    let q ← cueOf st sh least c
    let rest ← cuesOf st sh c.offset cs
    some (q :: rest)

/-- The offset of a show's last cue, 0 where it has none. -/
def lastOffset (sh : ShowRecord) : Nat :=
  match sh.cues.getLast? with
  | none => 0
  | some c => c.offset

/-! ### Channels, lines, routes, sets (R21, R110, R115, R116, R122, R125) -/

/-- A mapping with every field in its range (R21). -/
def mappingOf (m : MappingReq) : Option ChannelEntry := do
  let gallery ← within 0 15 m.gallery
  let kind ← kindOf m.kind
  let node ← within 1 32 m.node
  let nodeChannel ← within 0 7 m.nodeChannel
  some { gallery := gallery, kind := kind, node := node, nodeChannel := nodeChannel }

/-- The entry a SET-CHANNEL writes (R22). -/
def entryOfReq (r : SetChannelReq) : Option (Option ChannelEntry) := do
  let mapped ← yesNo r.mapped
  if mapped then (mappingOf r.mapping).map some else some none

/-- A time of 0, or of `low` to `high` in multiples of 5 (R110). -/
def stepsOf5 (low high n : Nat) : Option Nat := if n = 0 ∨ (low ≤ n ∧ n ≤ high ∧ n % 5 = 0) then some n else none

/-- The settings of a SET-LINE (R110, R115). -/
def lineOf (r : SetLineReq) : Option LineSettings := do
  let enabled ← yesNo r.enabled
  let activeLevel ← activeLevelOf r.activeLevel
  let edge ← edgeOf r.edge
  let stableCount ← within 1 64 r.stableCount
  let repeatDelay ← stepsOf5 100 5000 r.repeatDelay
  let repeatInterval ← stepsOf5 50 2000 r.repeatInterval
  let report ← yesNo r.report
  let wake ← yesNo r.wake
  if (repeatDelay = 0 ↔ repeatInterval = 0) then
    some { enabled := enabled, activeLevel := activeLevel, edge := edge, stableCount := stableCount,
           repeatDelay := repeatDelay, repeatInterval := repeatInterval, report := report, wake := wake }
  else none

/-- A route's target by its action; that of NOTE is disregarded (R116, R122). A START, START-RESTART, START-SET, STOP or RELEASE that carries none is refused, a choice of the model (log entry 12). -/
def routeTarget (a : RouteAction) (t : OptField) : Option (Option Nat) :=
  match a with
  | .start => targetWithin 63 t
  | .startRestart => targetWithin 63 t
  | .startSet => targetWithin 15 t
  | .stop => targetWithin 63 t
  | .release => targetWithin 63 t
  | .note => match t with
    | .absent => some none
    | .present _ => some none
    | .malformed => none

/-- The settings of a SET-ROUTE (R116, R122). -/
def routeOf (r : SetRouteReq) : Option RouteSettings := do
  let enabled ← yesNo r.enabled
  let action ← routeActionOf r.action
  let target ← routeTarget action r.target
  let rearm ← within 0 600 r.rearm
  let report ← yesNo r.report
  some { enabled := enabled, action := action, target := target, rearm := rearm, report := report }

/-- The set a DEFINE-SET writes; a count of 0 leaves it undefined (R125). -/
def setOf (r : DefineSetReq) : Option (Option SetSettings) := do
  let mode ← setModeOf r.mode
  if r.shows.length ≤ 8 ∧ r.shows.all (fun id => decide (id ≤ 63)) then
    some (if r.shows.isEmpty then none else some { shows := r.shows, mode := mode })
  else none

/-! ### Galleries and laws (R137, R138) -/

/-- The settings of a SET-GALLERY (R131, R137). -/
def galleryOf (r : SetGalleryReq) : Option GallerySettings :=
  if r.low < r.high ∧ r.high ≤ 1023 ∧ (r.stuckCount = 0 ∨ (10 ≤ r.stuckCount ∧ r.stuckCount ≤ 255)) then
    some { low := r.low, high := r.high, stuckCount := r.stuckCount }
  else none

/-- Levels strictly increase along a curve (R138). -/
def increasing : List CurvePoint → Bool
  | [] => true
  | [_] => true
  | a :: b :: rest => decide (a.level < b.level) && increasing (b :: rest)

/-- A curve of five points with levels to 1023 and gains to 100, levels strictly increasing (R138). -/
def curveOf (points : List (Nat × Nat)) : Option (List CurvePoint) :=
  let curve := points.map (fun q => ({ level := q.1, gain := q.2 } : CurvePoint))
  if curve.length = 5 ∧ curve.all (fun q => decide (q.level ≤ 1023) && decide (q.gain ≤ 100)) ∧ increasing curve then some curve else none

/-- The settings of a SET-LAW (R138, R144). -/
def lawOf (r : SetLawReq) : Option LawSettings := do
  let gallery ← within 0 15 r.gallery
  let curve ← curveOf r.curve
  let interpolate ← yesNo r.interpolate
  let upRate ← within 1 100 r.upRate
  let downRate ← within 1 100 r.downRate
  let jumpHigh ← yesNo r.jumpHigh
  let jumpLow ← yesNo r.jumpLow
  let hysteresis ← within 0 200 r.hysteresis
  some { gallery := gallery, curve := curve, interpolate := interpolate, upRate := upRate, downRate := downRate,
         jumpHigh := jumpHigh, jumpLow := jumpLow, hysteresis := hysteresis }

/-- A channel on which a law may stand (R138, R144). -/
def lawChannelOk (st : Settings) (ch : Nat) : Bool :=
  match (tget st.channels ch : Option ChannelEntry) with
  | none => false
  | some e => decide (e.kind ≠ .effect)

/-! ### Time and schedule (R151, R154, R157) -/

/-- The source and rate of a SET-TIMEBASE; a rate carried with INTERNAL is disregarded (R151). -/
def timebaseOf (source : Nat) (rate : OptField) : Option (TimeSource × Option Nat) := do
  let src ← timeSourceOf source
  match src, rate with
  | .internal, .absent => some (.internal, none)
  | .internal, .present _ => some (.internal, none)
  | .internal, .malformed => none
  | .sync, .present n => if n ∈ [24, 25, 30, 50, 60] then some (.sync, some n) else none
  | .sync, .absent => none
  | .sync, .malformed => none

/-- An entry's target by its action; that of OPEN and CLOSE is disregarded (R154, R157). -/
def entryTarget (a : EntryAction) (t : OptField) : Option (Option Nat) :=
  match a with
  | .start => targetWithin 63 t
  | .startSet => targetWithin 15 t
  | .stop => targetWithin 63 t
  | _ => match t with
    | .absent => some none
    | .present _ => some none
    | .malformed => none

/-- An entry's wake set by its action; only CLOSE has one, and LINK is always in it (R154, R157; log entry 12). -/
def entryWake (a : EntryAction) (w : WakeField) : Option (Option WakeSet) :=
  match a, w with
  | _, .malformed => none
  | .closeHouse, .present w => (wakeOf w).map some
  | .closeHouse, .absent => none
  | _, .present _ => some none
  | _, .absent => some none

/-- The entry of a SET-ENTRY (R154, R157). -/
def scheduleOf (r : SetEntryReq) : Option ScheduleEntry := do
  let enabled ← yesNo r.enabled
  let second ← within 0 86399 r.second
  let action ← entryActionOf r.action
  let target ← entryTarget action r.target
  let wake ← entryWake action r.wake
  some { enabled := enabled, mask := r.mask, second := second, action := action, target := target, wake := wake }

end Sys2Proof.Machine
end

