-- ==== Sys2Proof/Machine/Verdict.lean ====
section
/-! DEFINITION. What a request that has been taken comes to: OK with its body, or a reason; and the reply made of it (R176). -/

namespace Sys2Proof.Machine

/-- The outcome of a request. -/
inductive Verdict where
  | ok (body : OkBody)
  | refused (why : Reason)
  deriving DecidableEq, Repr

/-- The reply of a verdict: OK, or REFUSED with the reason and the kind (R176). -/
def Verdict.reply (tag kind : Byte) : Verdict → Reply
  | .ok body => .ok tag kind body
  | .refused why => .refused tag kind why

/-- Make the reply of a request that completes (R175). -/
def answerWith (tag kind : Byte) (out : Verdict × Blocks) : Blocks := putReply (out.1.reply tag kind) out.2

/-- Refuse, and change nothing. -/
def refuseAs (why : Reason) (p : Blocks) : Verdict × Blocks := (.refused why, p)

end Sys2Proof.Machine
end

