-- ==== Sys2Proof/Machine/Store.lean ====
section
/-! DEFINITION. The requests of the cue store and the channel map, the save, and the settings load (R6 to R20, R22, R23, R41). -/

namespace Sys2Proof.Machine

/-! ### Editing and reading shows (R6, R8, R10 to R12) -/

/-- Write a place of the store. -/
def setShow (id : Nat) (v : Option ShowRecord) (p : Blocks) : Blocks :=
  setSettings { p.store.settings with shows := tset p.store.settings.shows id v } p

/-- DEFINE-SHOW (R6, R7). -/
def askDefineShow (r : DefineShowReq) (p : Blocks) : Verdict × Blocks :=
  if 63 < r.id then refuseAs .badField p
  else if showActive p r.id then refuseAs .showActive p
  else
    match headerOf p.store.settings r with
    | none => refuseAs .badField p
    | some h =>
      if leadersOk p.store.settings r.id h then
        let q := setShow r.id (some { toShowHeader := h, cues := [] }) p
        (.ok (.showDefined r.id (cueCountOf (showOf p r.id)) (cuesUsed q.store.settings)), q)
      else refuseAs .badField p

/-- APPEND-CUES (R8, R9). -/
def askAppendCues (r : AppendCuesReq) (p : Blocks) : Verdict × Blocks :=
  if 63 < r.id then refuseAs .badField p
  else
    match showOf p r.id with
    | none => refuseAs .noShow p
    | some sh =>
      if showActive p r.id then refuseAs .showActive p
      else if r.cues.length < 1 ∨ 12 < r.cues.length then refuseAs .badField p
      else
        match cuesOf p.store.settings sh (lastOffset sh) r.cues with
        | none => refuseAs .badField p
        | some cs =>
          if 4096 < cuesUsed p.store.settings + cs.length then refuseAs .storeFull p
          else if 512 < sh.cues.length + cs.length then refuseAs .storeFull p
          else
            let q := setShow r.id (some { sh with cues := sh.cues ++ cs }) p
            (.ok (.cuesAppended r.id sh.cues.length (sh.cues.length + cs.length) (cuesUsed q.store.settings)), q)

/-- ERASE-SHOW (R10). -/
def askEraseShow (id : Nat) (p : Blocks) : Verdict × Blocks :=
  if 63 < id then refuseAs .badField p
  else
    match showOf p id with
    | none => refuseAs .noShow p
    | some sh =>
      if showActive p id then refuseAs .showActive p
      else
        let q := setShow id none p
        (.ok (.showErased id sh.cues.length (cuesUsed q.store.settings)), q)

/-- READ-SHOW, header form (R11). -/
def askReadHeader (id : Nat) (p : Blocks) : Verdict × Blocks :=
  if 63 < id then refuseAs .badField p
  else
    match showOf p id with
    | none => refuseAs .noShow p
    | some sh => (.ok (.header id sh.toShowHeader sh.cues.length), p)

/-- READ-SHOW, page form (R12). An undefined show has no cue count to pass, so it is refused NO-SHOW. -/
def askReadPage (id start : Nat) (p : Blocks) : Verdict × Blocks :=
  if 63 < id then refuseAs .badField p
  else
    match showOf p id with
    | none => refuseAs .noShow p
    | some sh =>
      if sh.cues.length < start then refuseAs .badField p
      else (.ok (.page id start sh.cues.length ((sh.cues.drop start).take 12)), p)

/-! ### Saving and loading (R15, R16, R18) -/

/-- An image area. -/
def imageIn (c : CueStore) : Area → Option Image
  | .a => c.areaA
  | .b => c.areaB

/-- Write an image area. -/
def setImage (ar : Area) (v : Option Image) (c : CueStore) : CueStore :=
  match ar with
  | .a => { c with areaA := v }
  | .b => { c with areaB := v }

/-- The current image: the one in the area that the note names. -/
def currentImage (c : CueStore) : Option Image :=
  match c.note with
  | none => none
  | some ar => imageIn c ar

/-- The area a save writes: the one the note does not name; area A where it names none (R15). -/
def saveArea (c : CueStore) : Area :=
  match c.note with
  | none => .a
  | some .a => .b
  | some .b => .a

/-- The generation a save writes: one more than the current image's, 0 after 65,535; 1 where the note names no area (R15). -/
def saveGeneration (c : CueStore) : Nat :=
  match currentImage c with
  | none => 1
  | some im => (im.generation + 1) % 65536

/-- SAVE-STORE is taken: the settings are captured and the write begins into an area that then holds no valid image (R16, R17). -/
def beginSave (tag : Byte) (p : Blocks) : Blocks :=
  let c := p.store
  let job : SaveJob := { tag := tag, area := saveArea c, image := { generation := saveGeneration c, settings := c.settings } }
  { p with store := { setImage (saveArea c) none c with save := some job } }

/-- The kind of SAVE-STORE (R183). -/
def saveKind : Byte := 5

/-- The store after a write has ended (R16). -/
def savedStore (j : SaveJob) (passes : Bool) (c : CueStore) : CueStore :=
  if passes then { setImage j.area (some j.image) c with note := some j.area, save := none }
  else { setImage j.area none c with save := none }

/-- The write ends with the outcome of its read-back: the reply to SAVE-STORE, and STORE-SAVED (R16; log entry 24). -/
def endSave (passes : Bool) (p : Blocks) : Blocks :=
  match p.store.save with
  | none => p
  | some j =>
    putNotice (.storeSaved passes j.image.generation)
      (putReply (.ok j.tag saveKind (.saved passes j.image.generation)) { p with store := savedStore j passes p.store })

/-- Area A's generation is the newer of two (R15). -/
def newerIsA (a b : Nat) : Bool :=
  if a = (b + 1) % 65536 then true
  else if b = (a + 1) % 65536 then false
  else decide (b ≤ a)

/-- The area that a load chooses: the newer of those that pass (R15, R18). -/
def loadArea (c : CueStore) : Option Area :=
  match c.areaA, c.areaB with
  | none, none => none
  | some _, none => some .a
  | none, some _ => some .b
  | some a, some b => if newerIsA a.generation b.generation then some .a else some .b

/-- The settings that a load finds; the last column of R14 where no area passes (R18). -/
def loadedImage (c : CueStore) : Option Image :=
  match loadArea c with
  | none => none
  | some ar => imageIn c ar

/-- The store's notice at the end of a load (R18). -/
def loadNotice : Option Image → Notice
  | none => .storeEmpty
  | some im => .storeLoaded im.generation (showsDefined im.settings) (cuesUsed im.settings)

/-- The load ends: settings and note are set, the timebase takes its state from its source, the store's notice goes first, then the POLLs are queued (R18, R109, R159). -/
def endLoad (p : Blocks) : Blocks :=
  if p.store.loading then
    let im := loadedImage p.store
    let st : Settings := match im with
      | none => Settings.initial
      | some i => i.settings
    let c : CueStore := { p.store with settings := st, note := loadArea p.store, loading := false }
    pollReferenced (putNotice (loadNotice im) { p with store := c, time := p.time.afresh st.source })
  else p

/-! ### The channel map (R22, R23, R41) -/

/-- The request would unmap the channel or change its kind (check 3 of R22). -/
def unmapsOrRekinds (old new : Option ChannelEntry) : Bool :=
  match old, new with
  | none, _ => false
  | some _, none => true
  | some a, some b => decide (a.kind ≠ b.kind)

/-- The request would move the channel to another node or node channel (check 4 of R22). -/
def movesNode (old new : Option ChannelEntry) : Bool :=
  match old, new with
  | some a, some b => decide (a.node ≠ b.node) || decide (a.nodeChannel ≠ b.nodeChannel)
  | _, _ => false

/-- Another mapped channel uses the same node and node channel (check 2 of R22). -/
def pairTaken (st : Settings) (ch : Nat) (new : Option ChannelEntry) : Bool :=
  match new with
  | none => false
  | some e => channelNumbers.any (fun c => decide (c ≠ ch) && (match (tget st.channels c : Option ChannelEntry) with
      | none => false
      | some o => decide (o.node = e.node) && decide (o.nodeChannel = e.nodeChannel)))

/-- What an accepted SET-CHANNEL does to a law on the channel (R138). -/
def lawAfterChannel (ch : Nat) (old new : Option ChannelEntry) (p : Blocks) : Blocks :=
  match new with
  | none => dropLaw ch p
  | some e => if e.kind = .effect then dropLaw ch p else if movesNode old new then forgetSent ch p else p

/-- Write a channel entry. -/
def setChannelEntry (ch : Nat) (v : Option ChannelEntry) (p : Blocks) : Blocks :=
  setSettings { p.store.settings with channels := tset p.store.settings.channels ch v } p

/-- SET-CHANNEL (R22). -/
def askSetChannel (r : SetChannelReq) (p : Blocks) : Verdict × Blocks :=
  if 127 < r.channel then refuseAs .badField p
  else
    match entryOfReq r with
    | none => refuseAs .badField p
    | some new =>
      let old := channelEntry p r.channel
      if pairTaken p.store.settings r.channel new then refuseAs .badField p
      else if unmapsOrRekinds old new && channelListed p.store.settings r.channel then refuseAs .channelReferenced p
      else if movesNode old new && !(ownersOf p r.channel).isEmpty then refuseAs .showActive p
      else (.ok (.channelSet r.channel new), lawAfterChannel r.channel old new (setChannelEntry r.channel new p))

/-- GET-CHANNEL: the entry, and the stack from bottom to top (R23). -/
def askGetChannel (ch : Nat) (p : Blocks) : Verdict × Blocks :=
  if 127 < ch then refuseAs .badField p
  else (.ok (.channel ch (channelEntry p ch) (ownersOf p ch).reverse), p)

/-- A show lists a channel mapped to gallery `g`. -/
def listsGallery (p : Blocks) (g : Nat) (sh : ShowRecord) : Bool :=
  sh.channels.any (fun ch => match channelEntry p ch with
    | none => false
    | some e => decide (e.gallery = g))

/-- The slots that STOP-GALLERY ends (R41). -/
def gallerySlots (p : Blocks) (g : Nat) : List Nat :=
  slotNumbers.filter (fun k => match slotShow p k with
    | none => false
    | some (_, sh) => listsGallery p g sh)

/-- STOP-GALLERY (R41). -/
def askStopGallery (g : Nat) (p : Blocks) : Verdict × Blocks :=
  if 15 < g then refuseAs .badField p
  else
    let out := endCounted ((gallerySlots p g).map (fun k => (k, EndReason.stopped))) p
    (.ok (.galleryStopped g out.1), out.2)

end Sys2Proof.Machine
end

