-- ==== Sys2Proof/Machine/Requests.lean ====
section
/-! DEFINITION. The requests of the slots, the bus, the trigger unit, the level unit, time, and the house; and the immediate requests (R47, R61, R68, R72, R107, R108, R115, R122, R123, R125, R127, R128, R135 to R137, R144, R151, R153, R157, R161, R163, R167, R169, R170, R179 to R181). -/

namespace Sys2Proof.Machine

/-! ### Play slots (R47, R61, R68, R72) -/

/-- START (R47). The options are, in order, plain and RESTART. -/
def askStart (id option : Nat) (p : Blocks) : Verdict × Blocks :=
  match yesNo option with
  | none => refuseAs .badField p
  | some restart =>
    match startShow id .link restart p with
    | (.refused why _, q) => (.refused why, q)
    | (.accepted k outcome, q) => (.ok (.started k outcome), q)

/-- STOP (R68). -/
def askStop (id : Nat) (p : Blocks) : Verdict × Blocks :=
  if 63 < id then refuseAs .badField p
  else if (showOf p id).isNone then refuseAs .noShow p
  else
    match slotHolding p id with
    | none => (.ok (.stopped none), p)
    | some k =>
      match slotOf p k with
      | none => (.ok (.stopped none), p)
      | some r => (.ok (.stopped (some (k, r.state))), endSlots [(k, .stopped)] p)

/-- The cue index at which a slot rests or that it has reached after a release; where the release has completed the show, the show's cue count (R61; log entry 28). -/
def reachedCue (id : Nat) (k : Nat) (p : Blocks) : Nat :=
  match slotOf p k with
  | none => cueCountOf (showOf p id)
  | some r => if r.showId = id then r.pointer else cueCountOf (showOf p id)

/-- RELEASE (R61). -/
def askRelease (id : Nat) (p : Blocks) : Verdict × Blocks :=
  if 63 < id then refuseAs .badField p
  else if (showOf p id).isNone then refuseAs .noShow p
  else
    match heldSlot p id with
    | none => refuseAs .notHeld p
    | some k => (.ok (.released k (reachedCue id k (releaseHold k p))), releaseHold k p)

/-- GET-SLOT (R72). -/
def askGetSlot (k : Nat) (p : Blocks) : Verdict × Blocks :=
  if 15 < k then refuseAs .badField p
  else
    match slotOf p k with
    | none => (.ok (.freeSlot k), p)
    | some r =>
      (.ok (.slot k r (r.deadline.map wholeSeconds) (timerSeconds (tget p.runner.rest r.showId))), p)

/-! ### The bus (R107, R108) -/

/-- SET-BUS (R107). -/
def askSetBus (timeout retries : Nat) (p : Blocks) : Verdict × Blocks :=
  match within 1 20 timeout, within 0 2 retries with
  | some t, some n => (.ok (.bus t n), setSettings { p.store.settings with replyTimeout := t, retryCount := n } p)
  | _, _ => refuseAs .badField p

/-- GET-NODES (R108). -/
def askGetNodes (p : Blocks) : Verdict × Blocks :=
  (.ok (.nodes (nodeNumbers.map (fun n => { record := nodeRecord p n, referenced := nodeReferenced p.store.settings n }))
    p.bus.queue.length p.bus.job.isSome), p)

/-! ### The trigger unit (R115, R122, R123, R125, R127, R128) -/

/-- A line's working record after a SET-LINE (R115). -/
def lineAfterSet (old new : LineSettings) (w : LineWork) : LineWork :=
  if old.enabled ≠ new.enabled ∨ old.activeLevel ≠ new.activeLevel then LineWork.initial
  else if old.edge ≠ new.edge ∨ old.repeatDelay ≠ new.repeatDelay then { w with countdown := none }
  else w

/-- SET-LINE (R115). -/
def askSetLine (r : SetLineReq) (p : Blocks) : Verdict × Blocks :=
  if 31 < r.line then refuseAs .badField p
  else
    match lineOf r with
    | none => refuseAs .badField p
    | some st =>
      (.ok (.line r.line st), modLine r.line (lineAfterSet (tget p.store.settings.lines r.line) st)
        (setSettings { p.store.settings with lines := tset p.store.settings.lines r.line st } p))

/-- SET-ROUTE takes its source (R122). -/
def routeTakes (source : Nat) (rt : RouteSettings) (p : Blocks) : Bool :=
  rt.enabled && (tget p.trigger.sources source).pending && decide (p.house.mode = .opened) && decide (p.house.alarmState = .normal)

/-- SET-ROUTE (R122). -/
def askSetRoute (r : SetRouteReq) (p : Blocks) : Verdict × Blocks :=
  if 63 < r.source then refuseAs .badField p
  else
    match routeOf r with
    | none => refuseAs .badField p
    | some rt =>
      let q := setSettings { p.store.settings with routes := tset p.store.settings.routes r.source rt } p
      if routeTakes r.source rt q then (.ok (.route r.source rt true), takeSource r.source q)
      else (.ok (.route r.source rt false), q)

/-- Source `i` is chosen and pending. -/
def chosenPending (chosen : BitVec 64) (p : Blocks) (i : Nat) : Bool := chosen.getLsbD i && (tget p.trigger.sources i).pending

/-- CLEAR-PENDING (R123). -/
def askClearPending (chosen : BitVec 64) (p : Blocks) : Verdict × Blocks :=
  (.ok (.pendingCleared ((sourceNumbers.filter (chosenPending chosen p)).length)),
    sourceNumbers.foldl (fun q i => if chosen.getLsbD i then modSource i (fun w => { w with pending := false }) q else q) p)

/-- DEFINE-SET (R125). The reply gives the set without its pointer, which is 0 in every such reply: the model's reading (log entry 13). -/
def askDefineSet (r : DefineSetReq) (p : Blocks) : Verdict × Blocks :=
  if 15 < r.number then refuseAs .badField p
  else
    match setOf r with
    | none => refuseAs .badField p
    | some v =>
      (.ok (.showSet r.number v),
        setPointer r.number 0 (setSettings { p.store.settings with sets := tset p.store.settings.sets r.number v } p))

/-- START-SET (R127). -/
def askStartSet (number : Nat) (p : Blocks) : Verdict × Blocks :=
  if 15 < number then refuseAs .badField p
  else if underAlarm p then refuseAs .alarm p
  else
    match (tget p.store.settings.sets number : Option SetSettings) with
    | none => refuseAs .badField p
    | some st =>
      let out := startDefinedSet false number st p
      (.ok (.setStarted number st.mode (tget out.2.trigger.pointers number) out.1), out.2)

/-- A line as GET-TRIGGERS shows it (R128). -/
def lineView (p : Blocks) (i : Nat) : LineView := { settings := tget p.store.settings.lines i, qualified := (tget p.trigger.lines i).qualified }

/-- A source as GET-TRIGGERS shows it (R128). -/
def sourceView (p : Blocks) (i : Nat) : SourceView :=
  { settings := tget p.store.settings.routes i, pending := (tget p.trigger.sources i).pending,
    rearm := timerSeconds (tget p.trigger.sources i).rearm }

/-- A set as GET-TRIGGERS shows it (R128). -/
def setView (p : Blocks) (i : Nat) : Option SetView :=
  match (tget p.store.settings.sets i : Option SetSettings) with
  | none => none
  | some st => some { settings := st, pointer := tget p.trigger.pointers i }

/-- GET-TRIGGERS (R128): the tables are, in order, LINES, SOURCES and SETS. -/
def askGetTriggers (table start : Nat) (p : Blocks) : Verdict × Blocks :=
  match table with
  | 0 => if 31 < start then refuseAs .badField p else (.ok (.lines start ((numbersFrom start 8 32).map (lineView p))), p)
  | 1 => if 63 < start then refuseAs .badField p else (.ok (.sources start ((numbersFrom start 8 64).map (sourceView p))), p)
  | 2 => if 15 < start then refuseAs .badField p else (.ok (.sets start ((numbersFrom start 8 16).map (setView p))), p)
  | _ => refuseAs .badField p

/-! ### The level unit (R135 to R137, R144) -/

/-- The gallery numbers. -/
def galleryNumbers : List Nat := List.range 16

/-- A gallery's flags after the chosen ones are cleared (R135). -/
def clearFlags (chosen : BitVec 48) (g : Nat) (w : GalleryWork) : GalleryWork :=
  { w with
    highFlag := w.highFlag && !chosen.getLsbD (3 * g)
    lowFlag := w.lowFlag && !chosen.getLsbD (3 * g + 1)
    stuckFlag := w.stuckFlag && !chosen.getLsbD (3 * g + 2) }

/-- CLEAR-LEVEL-FLAGS (R135). -/
def askClearLevelFlags (chosen : BitVec 48) (p : Blocks) : Verdict × Blocks :=
  (.ok (.levelFlags (p.level.galleries.toList.map (fun w => (w.highFlag, w.lowFlag, w.stuckFlag)))),
    galleryNumbers.foldl (fun q g => modGallery g (clearFlags chosen g) q) p)

/-- A gallery as GET-LEVELS shows it (R136). -/
def galleryView (p : Blocks) (g : Nat) : GalleryView := { settings := tget p.store.settings.galleries g, work := tget p.level.galleries g }

/-- GET-LEVELS (R136). -/
def askGetLevels (start : Nat) (p : Blocks) : Verdict × Blocks :=
  if 15 < start then refuseAs .badField p
  else
    (.ok (.levels start ((numbersFrom start 8 16).map (galleryView p)) (attention p)),
      (numbersFrom start 8 16).foldl (fun q g => modGallery g (fun w => { w with minimum := 1023, maximum := 0 }) q) p)

/-- SET-GALLERY (R137). -/
def askSetGallery (r : SetGalleryReq) (p : Blocks) : Verdict × Blocks :=
  if 15 < r.gallery then refuseAs .badField p
  else
    match galleryOf r with
    | none => refuseAs .badField p
    | some st =>
      (.ok (.gallery r.gallery st), setSettings { p.store.settings with galleries := tset p.store.settings.galleries r.gallery st } p)

/-- A law's working record as SET-LAW writes it: the target from the latest reading, the current gain that target, the last sent gain of the law before (R144). -/
def lawWorkWritten (law : LawSettings) (old : Option LawSettings) (w : LawWork) (sample : Option Nat) (frozen : Bool) : LawWork :=
  { target := sample.map (targetGain law), current := sample.map (targetGain law)
    lastSent := if old.isSome then w.lastSent else none, frozen := frozen }

/-- Write a law and its working record (R144). -/
def writeLaw (ch : Nat) (law : LawSettings) (p : Blocks) : Blocks :=
  modLaw ch (fun w => lawWorkWritten law (lawOn p ch) w (tget p.level.galleries law.gallery).sample (lawFrozen p law.gallery))
    (setSettings { p.store.settings with laws := tset p.store.settings.laws ch (some law) } p)

/-- The gain that a TRIM carries at the write of a law, if one is queued (R144). -/
def trimAtWrite (ch : Nat) (law : LawSettings) (p : Blocks) : Option Nat :=
  if lawFrozen p law.gallery || !trimMayGo p ch then none else (tget p.level.laws ch).current

/-- SET-LAW, a write (R144). The reply says that a TRIM was queued when one was offered, though a full queue drop it by R92: a choice of the model (log entry 37); its class is that of R142 (log entry 32). -/
def askSetLaw (r : SetLawReq) (p : Blocks) : Verdict × Blocks :=
  if 127 < r.channel then refuseAs .badField p
  else
    match lawOf r with
    | none => refuseAs .badField p
    | some law =>
      if lawChannelOk p.store.settings r.channel then
        let q := writeLaw r.channel law p
        let w : LawWork := tget q.level.laws r.channel
        match trimAtWrite r.channel law q with
        | none => (.ok (.lawWritten r.channel law w.target w.current false), q)
        | some gain => (.ok (.lawWritten r.channel law w.target w.current true), offerTrim r.channel gain q)
      else refuseAs .badField p

/-- SET-LAW, a removal (R144). The reply's record keeps the channel number; its bytes are the yes or no alone, the model's choice (`putOk`; log entry 13). -/
def askRemoveLaw (ch : Nat) (p : Blocks) : Verdict × Blocks :=
  if 127 < ch then refuseAs .badField p else (.ok (.lawRemoved ch (lawOn p ch).isSome), dropLaw ch p)

/-- GET-LAW (R144). -/
def askGetLaw (ch : Nat) (p : Blocks) : Verdict × Blocks :=
  if 127 < ch then refuseAs .badField p
  else (.ok (.law ch ((lawOn p ch).map (fun law => { settings := law, work := tget p.level.laws ch }))), p)

/-! ### Time and schedule (R151, R153, R157) -/

/-- SET-TIMEBASE (R151). -/
def askSetTimebase (source : Nat) (rate : OptField) (p : Blocks) : Verdict × Blocks :=
  match timebaseOf source rate with
  | none => refuseAs .badField p
  | some (src, rt) =>
    if src = p.store.settings.source ∧ rt = p.store.settings.rate then (.ok (.timebase src rt p.time.state), p)
    else
      let q := modTime (fun u => u.afresh src) (setSettings { p.store.settings with source := src, rate := rt } p)
      (.ok (.timebase src rt q.time.state), q)

/-- SET-TIME (R153). That the reply's clock as now set is the second and the weekday, without the tick fraction and the valid flag that R152 counts to the clock, is the model's choice (log entry 13). -/
def askSetTime (second weekday : Nat) (p : Blocks) : Verdict × Blocks :=
  match within 0 86399 second, within 0 6 weekday with
  | some s, some d => (.ok (.clock s d), modTime (fun u => { u with second := s, weekday := d, fraction := 0, valid := true }) p)
  | _, _ => refuseAs .badField p

/-- GET-TIME (R153). -/
def askGetTime (p : Blocks) : Verdict × Blocks :=
  if p.time.valid then (.ok (.clock p.time.second p.time.weekday), p) else refuseAs .clockNotSet p

/-- SET-ENTRY (R157). -/
def askSetEntry (r : SetEntryReq) (p : Blocks) : Verdict × Blocks :=
  if 95 < r.entry then refuseAs .badField p
  else
    match scheduleOf r with
    | none => refuseAs .badField p
    | some e =>
      (.ok (.entry r.entry e), setSettings { p.store.settings with entries := tset p.store.settings.entries r.entry e } p)

/-- GET-ENTRY (R157). -/
def askGetEntry (e : Nat) (p : Blocks) : Verdict × Blocks :=
  if 95 < e then refuseAs .badField p else (.ok (.entry e (tget p.store.settings.entries e)), p)

/-! ### The house (R161, R163, R167, R169, R170) -/

/-- CLOSE (R161). -/
def askClose (w : WakeReq) (p : Blocks) : Verdict × Blocks :=
  match wakeOf w with
  | none => refuseAs .badField p
  | some ws =>
    match closing ws .link p with
    | (none, q) => (.refused .wakePending, q)
    | (some n, q) => (.ok (.houseClosed ws n), q)

/-- OPEN (R163). -/
def askOpen (p : Blocks) : Verdict × Blocks :=
  if underAlarm p then refuseAs .alarm p
  else
    match p.house.mode with
    | .opened => (.ok (.houseOpen .opened false), p)
    | .closed => (.ok (.houseOpen (opening .link p).house.mode true), opening .link p)

/-- ALARM-ACK (R167). -/
def askAlarmAck (p : Blocks) : Verdict × Blocks :=
  match p.house.alarmState with
  | .normal => refuseAs .notInAlarm p
  | st => (.ok (.acknowledged st p.house.alert), modHouse (fun h => { h with acknowledged := true, escalation := none, alert := false }) p)

/-- RESUME (R169). -/
def askResume (p : Blocks) : Verdict × Blocks :=
  match p.house.alarmState with
  | .normal => refuseAs .notInAlarm p
  | .alarm => refuseAs .alarm p
  | .alarmHeld =>
    if p.house.acknowledged then
      let out := resumeHouse p
      (.ok (.resumed out.1), out.2)
    else refuseAs .notAcknowledged p

/-- The show named to SET-ALARM may be designated (checks 3 and 4 of R170). -/
def overrideCheck (p : Blocks) : Option Nat → Option Reason
  | none => none
  | some id =>
    match showOf p id with
    | none => some .noShow
    | some sh => if sh.cls = .override then none else some .badClass

/-- SET-ALARM (R170). -/
def askSetAlarm (showId : OptField) (ackTime : Nat) (p : Blocks) : Verdict × Blocks :=
  match optWithin 63 showId, within 1 60 ackTime with
  | some id, some t =>
    if underAlarm p then refuseAs .alarm p
    else
      match overrideCheck p id with
      | some why => refuseAs why p
      | none => (.ok (.alarmSettings id t), setSettings { p.store.settings with overrideShow := id, ackTime := t } p)
  | _, _ => refuseAs .badField p

/-! ### The immediate requests (R179 to R181) -/

/-- The items of GET-STATUS (R179). The request executing, if any, is a save (R175). -/
def statusOf (p : Blocks) : StatusView :=
  { mode := p.house.mode, wake := p.house.wake, alarmState := p.house.alarmState, acknowledged := p.house.acknowledged,
    alert := p.house.alert, source := p.store.settings.source, timebase := p.time.state, clockValid := p.time.valid,
    slotCounts := slotCounts p, cuesUsed := cuesUsed p.store.settings, saving := p.store.save.isSome, attention := attention p,
    lost := p.link.lost, overrun := p.link.overrun, waiting := p.link.requests.length, executing := p.store.save.isSome }

/-- GET-STATUS: the overrun flag is cleared by the reply that carries it (R179). -/
def askGetStatus (p : Blocks) : Verdict × Blocks :=
  (.ok (.status (statusOf p)), { p with link := { p.link with overrun := false } })

/-- STOP-ALL (R180). -/
def askStopAll (p : Blocks) : Verdict × Blocks :=
  (.ok (.stoppedAll (busySlots p).length), offer hushTx (withdrawSlots (clearAll .stopped p)))

/-- Every slot is freed without an ending, and every rest timer made idle (R74). -/
def freeAll (p : Blocks) : Blocks :=
  { p with runner := { p.runner with slots := Vector.replicate 16 none, rest := Vector.replicate 64 none } }

/-- The node table at a reset (R109). -/
def resetNodes (p : Blocks) : Blocks := { p with bus := { p.bus with nodes := Vector.replicate 32 NodeRecord.initial } }

/-- The house and alarm unit at a RESET request (R172). -/
def resetHouse (p : Blocks) : Blocks :=
  modHouse (fun h => { h with
    alarmState := .normal, acknowledged := false, escalation := none, alert := false, qualified := none, run := 0, runLevel := false }) p

/-- The blocks' own parts of a RESET request (step 3 of R181). -/
def resetBlocks (p : Blocks) : Blocks :=
  let p1 := clearStacks (freeAll p)
  let p2 : Blocks := { p1 with map := { p1.map with waitCounter := 0 } }
  let p3 := pollReferenced (hushNow (resetNodes p2))
  modTime (fun u => u.afresh p.store.settings.source) (resetHouse (resetLevel (clearSources p3)))

/-- The notice queue is emptied, the lost flag cleared, and RESET-DONE put first (step 4 of R181). -/
def resetNotices (p : Blocks) : Blocks :=
  putNotice .resetDone { p with link := { p.link with notices := [], lost := false } }

/-- The kind of RESET (R183). -/
def resetKind : Byte := 38

/-- RESET, in the order of R181. -/
def resetPart (tag : Byte) (p : Blocks) : Blocks :=
  resetNotices (resetBlocks (putReply (.ok tag resetKind .resetTaken) (overtake p)))

end Sys2Proof.Machine
end

