-- ==== Sys2Proof/Machine/Frames.lean ====
section
/-! DEFINITION. The bytes of requests (R183; log entries 11 and 12): reading a body of each kind, and the arrival checks of kind and length (R174). -/

namespace Sys2Proof.Machine

/-- Reading fields from the front of a body; it fails where the body is too short. -/
abbrev Reader (α : Type) := StateT (List Byte) Option α

/-- One byte. -/
def read1 : Reader Nat := fun bs =>
  match bs with
  | [] => none
  | b :: rest => some (b.toNat, rest)

/-- Two bytes, the most significant first. -/
def read2 : Reader Nat := do
  let a ← read1
  let b ← read1
  pure (a * 256 + b)

/-- Three bytes, the most significant first. -/
def read3 : Reader Nat := do
  let a ← read2
  let b ← read1
  pure (a * 256 + b)

/-- `n` things of one form. -/
def readMany {α : Type} (one : Reader α) : Nat → Reader (List α)
  | 0 => pure []
  | n + 1 => do
    let x ← one
    let xs ← readMany one n
    pure (x :: xs)

/-- A list preceded by its count of one byte. -/
def readList {α : Type} (one : Reader α) : Reader (List α) := do
  let n ← read1
  readMany one n

/-- An optional field of one byte: absent after a presence byte 0, present after 1; after any other byte the field follows and the form is malformed (log entry 12). -/
def readOpt : Reader OptField := do
  let flag ← read1
  if flag = 0 then pure .absent
  else
    let v ← read1
    if flag = 1 then pure (.present v) else pure .malformed

/-- A selection of items numbered from 0: bit 0 of the first byte is item 0. -/
def readBits : Nat → Reader Nat
  | 0 => pure 0
  | n + 1 => do
    let b ← read1
    let rest ← readBits n
    pure (b + 256 * rest)

/-- DEFINE-SHOW (R6): the fields of R2 in order. -/
def readDefineShow : Reader Request := do
  let id ← read1
  let label ← readList read1
  let cls ← read1
  let channels ← readList read1
  let length ← read3
  let plays ← read1
  let preempt ← read1
  let conflict ← read1
  let primeMode ← read1
  let primeTimeout ← read1
  let rest ← read2
  let leader ← readOpt
  let tied ← read1
  let autostart ← read1
  let keepClosed ← read1
  pure (.defineShow
    { id := id, label := label, cls := cls, channels := channels, length := length, plays := plays, preempt := preempt,
      conflict := conflict, primeMode := primeMode, primeTimeout := primeTimeout, rest := rest, leader := leader,
      tied := tied, autostart := autostart, keepClosed := keepClosed })

/-- The nine bytes of a cue record. -/
def readCue : Reader RawCue := do
  let offset ← read3
  let action ← read1
  let index ← read1
  let word ← read2
  let byte7 ← read1
  let byte8 ← read1
  pure { offset := offset, action := action, index := index, word := word, byte7 := byte7, byte8 := byte8 }

/-- APPEND-CUES (R8). -/
def readAppendCues : Reader Request := do
  let id ← read1
  let cues ← readList readCue
  pure (.appendCues { id := id, cues := cues })

/-- SET-CHANNEL (R22): the fields of the mapping follow a flag that is not 0. -/
def readSetChannel : Reader Request := do
  let channel ← read1
  let mapped ← read1
  if mapped = 0 then pure (.setChannel { channel := channel, mapped := mapped, mapping := default })
  else
    let gallery ← read1
    let kind ← read1
    let node ← read1
    let nodeChannel ← read1
    pure (.setChannel { channel := channel, mapped := mapped, mapping := { gallery := gallery, kind := kind, node := node, nodeChannel := nodeChannel } })

/-- SET-LINE (R115). -/
def readSetLine : Reader Request := do
  let line ← read1
  let enabled ← read1
  let activeLevel ← read1
  let edge ← read1
  let stableCount ← read1
  let repeatDelay ← read2
  let repeatInterval ← read2
  let report ← read1
  let wake ← read1
  pure (.setLine
    { line := line, enabled := enabled, activeLevel := activeLevel, edge := edge, stableCount := stableCount,
      repeatDelay := repeatDelay, repeatInterval := repeatInterval, report := report, wake := wake })

/-- SET-ROUTE (R122). The target, which R116 calls absent for NOTE and never optional, is read behind a presence byte whatever the action: the model's choice (log entry 11). -/
def readSetRoute : Reader Request := do
  let source ← read1
  let enabled ← read1
  let action ← read1
  let target ← readOpt
  let rearm ← read2
  let report ← read1
  pure (.setRoute { source := source, enabled := enabled, action := action, target := target, rearm := rearm, report := report })

/-- DEFINE-SET (R125). -/
def readDefineSet : Reader Request := do
  let number ← read1
  let shows ← readList read1
  let mode ← read1
  pure (.defineSet { number := number, shows := shows, mode := mode })

/-- SET-GALLERY (R137). -/
def readSetGallery : Reader Request := do
  let gallery ← read1
  let low ← read2
  let high ← read2
  let stuckCount ← read1
  pure (.setGallery { gallery := gallery, low := low, high := high, stuckCount := stuckCount })

/-- A point of a curve. -/
def readPoint : Reader (Nat × Nat) := do
  let level ← read2
  let gain ← read1
  pure (level, gain)

/-- The seven settings of a law (R138). -/
def readLawSettings (channel : Nat) : Reader SetLawReq := do
  let gallery ← read1
  let curve ← readMany readPoint 5
  let interpolate ← read1
  let upRate ← read1
  let downRate ← read1
  let jumpHigh ← read1
  let jumpLow ← read1
  let hysteresis ← read1
  pure { channel := channel, gallery := gallery, curve := curve, interpolate := interpolate, upRate := upRate,
         downRate := downRate, jumpHigh := jumpHigh, jumpLow := jumpLow, hysteresis := hysteresis }

/-- SET-LAW (R144): form byte 0 a removal, 1 a write with its settings after it (log entries 11 and 12). -/
def readSetLaw : Reader Arrived := do
  let channel ← read1
  let form ← read1
  if form = 0 then pure (.request (.removeLaw channel))
  else
    let r ← readLawSettings channel
    if form = 1 then pure (.request (.setLaw r)) else pure .badForm

/-- A wake set: SCHEDULE, then TRIGGER. -/
def readWake : Reader WakeReq := do
  let schedule ← read1
  let trigger ← read1
  pure { schedule := schedule, trigger := trigger }

/-- The wake set of SET-ENTRY, which R154 gives a CLOSE alone, behind a presence byte, whatever the action: the model's choice (log entry 11). -/
def readWakeField : Reader WakeField := do
  let flag ← read1
  if flag = 0 then pure .absent
  else
    let w ← readWake
    if flag = 1 then pure (.present w) else pure .malformed

/-- SET-ENTRY (R157). The mask is a selection of seven items; the bit above them stands for none. The target, which R154 calls absent for OPEN and CLOSE and never optional, is read behind a presence byte whatever the action, as the wake set is: the model's choice (log entry 11). -/
def readSetEntry : Reader Request := do
  let entry ← read1
  let enabled ← read1
  let mask ← read1
  let second ← read3
  let action ← read1
  let target ← readOpt
  let wake ← readWakeField
  pure (.setEntry
    { entry := entry, enabled := enabled, mask := BitVec.ofNat 7 mask, second := second, action := action, target := target, wake := wake })

/-- A request that is one number of one byte. -/
def readOne (f : Nat → Request) : Reader Request := do
  let n ← read1
  pure (f n)

/-- A request that is two numbers of one byte. -/
def readTwo (f : Nat → Nat → Request) : Reader Request := do
  let a ← read1
  let b ← read1
  pure (f a b)

/-- SET-TIMEBASE (R151). The rate is read as an optional field behind a presence byte, with INTERNAL as with SYNC: the model's reading (log entry 11). -/
def readSetTimebase : Reader Request := do
  let source ← read1
  let rate ← readOpt
  pure (.setTimebase source rate)

/-- SET-TIME (R153). -/
def readSetTime : Reader Request := do
  let second ← read3
  let weekday ← read1
  pure (.setTime second weekday)

/-- SET-ALARM (R170). The override show, a show id or none, is read as an optional field, absent for none: the model's choice (log entry 11). -/
def readSetAlarm : Reader Request := do
  let showId ← readOpt
  let ackTime ← read1
  pure (.setAlarm showId ackTime)

/-- READ-SHOW (R11, R12): the length chooses the form (R174). -/
def readReadShow (body : List Byte) : Option Arrived :=
  match body with
  | [id] => some (.request (.readShowHeader id.toNat))
  | [id, hi, lo] => some (.request (.readShowPage id.toNat (hi.toNat * 256 + lo.toNat)))
  | _ => none

/-- A reader that must use the whole body. A body whose length its own presence byte or mapped flag does not allow is answered BAD-LENGTH, a choice of the model (log entry 12). -/
def wholeBody (r : Reader Request) (body : List Byte) : Option Arrived :=
  match r body with
  | some (q, []) => some (.request q)
  | _ => none

/-- SET-LAW's reader, using the whole body. -/
def wholeSetLaw (body : List Byte) : Option Arrived :=
  match readSetLaw body with
  | some (q, []) => some q
  | _ => none

/-- The body of one of the request kinds 1 to 38; none where its length is not allowed for the kind (R174, R183). The outer none is a kind that is no request kind. -/
def readBody (kind : Nat) (body : List Byte) : Option (Option Arrived) :=
  match kind with
  | 1 => some (wholeBody readDefineShow body)
  | 2 => some (wholeBody readAppendCues body)
  | 3 => some (wholeBody (readOne .eraseShow) body)
  | 4 => some (readReadShow body)
  | 5 => some (wholeBody (pure .saveStore) body)
  | 6 => some (wholeBody readSetChannel body)
  | 7 => some (wholeBody (readOne .getChannel) body)
  | 8 => some (wholeBody (readOne .stopGallery) body)
  | 9 => some (wholeBody (readTwo .startShow) body)
  | 10 => some (wholeBody (readOne .stopShow) body)
  | 11 => some (wholeBody (readOne .release) body)
  | 12 => some (wholeBody (readOne .getSlot) body)
  | 13 => some (wholeBody (readTwo .setBus) body)
  | 14 => some (wholeBody (pure .getNodes) body)
  | 15 => some (wholeBody readSetLine body)
  | 16 => some (wholeBody readSetRoute body)
  | 17 => some (wholeBody (do let n ← readBits 8; pure (.clearPending (BitVec.ofNat 64 n))) body)
  | 18 => some (wholeBody readDefineSet body)
  | 19 => some (wholeBody (readOne .startSet) body)
  | 20 => some (wholeBody (readTwo .getTriggers) body)
  | 21 => some (wholeBody (do let n ← readBits 6; pure (.clearLevelFlags (BitVec.ofNat 48 n))) body)
  | 22 => some (wholeBody (readOne .getLevels) body)
  | 23 => some (wholeBody readSetGallery body)
  | 24 => some (wholeSetLaw body)
  | 25 => some (wholeBody (readOne .getLaw) body)
  | 26 => some (wholeBody readSetTimebase body)
  | 27 => some (wholeBody readSetTime body)
  | 28 => some (wholeBody (pure .getTime) body)
  | 29 => some (wholeBody readSetEntry body)
  | 30 => some (wholeBody (readOne .getEntry) body)
  | 31 => some (wholeBody (do let w ← readWake; pure (.closeHouse w)) body)
  | 32 => some (wholeBody (pure .openHouse) body)
  | 33 => some (wholeBody (pure .alarmAck) body)
  | 34 => some (wholeBody (pure .resume) body)
  | 35 => some (wholeBody readSetAlarm body)
  | 36 => some (wholeBody (pure .getStatus) body)
  | 37 => some (wholeBody (pure .stopAll) body)
  | 38 => some (wholeBody (pure .reset) body)
  | _ => none

/-- What an accepted frame asks for (R174). -/
def readRequest (kind : Byte) (body : List Byte) : Arrived :=
  match readBody kind.toNat body with
  | none => .unknownKind
  | some none => .badLength
  | some (some q) => q

/-- The kind of a request (R183). -/
def kindOfRequest : Request → Byte
  | .defineShow _ => 1
  | .appendCues _ => 2
  | .eraseShow _ => 3
  | .readShowHeader _ => 4
  | .readShowPage _ _ => 4
  | .saveStore => 5
  | .setChannel _ => 6
  | .getChannel _ => 7
  | .stopGallery _ => 8
  | .startShow _ _ => 9
  | .stopShow _ => 10
  | .release _ => 11
  | .getSlot _ => 12
  | .setBus _ _ => 13
  | .getNodes => 14
  | .setLine _ => 15
  | .setRoute _ => 16
  | .clearPending _ => 17
  | .defineSet _ => 18
  | .startSet _ => 19
  | .getTriggers _ _ => 20
  | .clearLevelFlags _ => 21
  | .getLevels _ => 22
  | .setGallery _ => 23
  | .setLaw _ => 24
  | .removeLaw _ => 24
  | .getLaw _ => 25
  | .setTimebase _ _ => 26
  | .setTime _ _ => 27
  | .getTime => 28
  | .setEntry _ => 29
  | .getEntry _ => 30
  | .closeHouse _ => 31
  | .openHouse => 32
  | .alarmAck => 33
  | .resume => 34
  | .setAlarm _ _ => 35
  | .getStatus => 36
  | .stopAll => 37
  | .reset => 38

end Sys2Proof.Machine
end

