-- ==== Sys2Proof/Machine/Link.lean ====
section
/-! DEFINITION. The link controller: the arrival of frames, the request queue, the receive assembler and the transmitter (R173 to R178, R182), power-up and the reset line (R18, R19), and what every event ends with. -/

namespace Sys2Proof.Machine

/-- Change the link controller. -/
def modLink (f : LinkController → LinkController) (p : Blocks) : Blocks := { p with link := f p.link }

/-! ### Taking a request (R175) -/

/-- A request is taken: its effect, and its reply when it completes at this event (R175). -/
def takeRequest (tag kind : Byte) (r : Request) (p : Blocks) : Blocks :=
  match r with
  | .defineShow r => answerWith tag kind (askDefineShow r p)
  | .appendCues r => answerWith tag kind (askAppendCues r p)
  | .eraseShow id => answerWith tag kind (askEraseShow id p)
  | .readShowHeader id => answerWith tag kind (askReadHeader id p)
  | .readShowPage id start => answerWith tag kind (askReadPage id start p)
  | .saveStore => beginSave tag p
  | .setChannel r => answerWith tag kind (askSetChannel r p)
  | .getChannel ch => answerWith tag kind (askGetChannel ch p)
  | .stopGallery g => answerWith tag kind (askStopGallery g p)
  | .startShow id option => answerWith tag kind (askStart id option p)
  | .stopShow id => answerWith tag kind (askStop id p)
  | .release id => answerWith tag kind (askRelease id p)
  | .getSlot k => answerWith tag kind (askGetSlot k p)
  | .setBus timeout retries => answerWith tag kind (askSetBus timeout retries p)
  | .getNodes => answerWith tag kind (askGetNodes p)
  | .setLine r => answerWith tag kind (askSetLine r p)
  | .setRoute r => answerWith tag kind (askSetRoute r p)
  | .clearPending chosen => answerWith tag kind (askClearPending chosen p)
  | .defineSet r => answerWith tag kind (askDefineSet r p)
  | .startSet number => answerWith tag kind (askStartSet number p)
  | .getTriggers table start => answerWith tag kind (askGetTriggers table start p)
  | .clearLevelFlags chosen => answerWith tag kind (askClearLevelFlags chosen p)
  | .getLevels start => answerWith tag kind (askGetLevels start p)
  | .setGallery r => answerWith tag kind (askSetGallery r p)
  | .setLaw r => answerWith tag kind (askSetLaw r p)
  | .removeLaw ch => answerWith tag kind (askRemoveLaw ch p)
  | .getLaw ch => answerWith tag kind (askGetLaw ch p)
  | .setTimebase source rate => answerWith tag kind (askSetTimebase source rate p)
  | .setTime second weekday => answerWith tag kind (askSetTime second weekday p)
  | .getTime => answerWith tag kind (askGetTime p)
  | .setEntry r => answerWith tag kind (askSetEntry r p)
  | .getEntry e => answerWith tag kind (askGetEntry e p)
  | .closeHouse w => answerWith tag kind (askClose w p)
  | .openHouse => answerWith tag kind (askOpen p)
  | .alarmAck => answerWith tag kind (askAlarmAck p)
  | .resume => answerWith tag kind (askResume p)
  | .setAlarm showId ackTime => answerWith tag kind (askSetAlarm showId ackTime p)
  | .getStatus => answerWith tag kind (askGetStatus p)
  | .stopAll => answerWith tag kind (askStopAll p)
  | .reset => resetPart tag p

/-- A queued frame is taken; one that waited through a load has its kind and length checked now (R174). -/
def takeQueued (q : Queued) (p : Blocks) : Blocks :=
  match q.content with
  | .unknownKind => putReply (.refused q.tag q.kind .unknownKind) p
  | .badLength => putReply (.refused q.tag q.kind .badLength) p
  | .badForm => putReply (.refused q.tag q.kind .badField) p
  | .request r => takeRequest q.tag q.kind r p

/-- A queued request may be taken: the load has ended, no request is executing, and the reply list holds fewer than 8 (R175). -/
def mayTake (p : Blocks) : Bool := !p.store.loading && p.store.save.isNone && decide (p.link.replies.length < 8)

/-- Take queued requests, oldest first, each when what came before has been carried to its end, at most `n` (R175). -/
def serveUpTo : Nat → Blocks → Blocks
  | 0, p => p
  | n + 1, p =>
    match p.link.requests with
    | [] => p
    | q :: rest => if mayTake p then serveUpTo n (takeQueued q (modLink (fun l => { l with requests := rest }) p)) else p

/-- Take queued requests as long as they may be taken; nothing joins the queue meanwhile (R175). -/
def serve (p : Blocks) : Blocks := serveUpTo p.link.requests.length p

/-! ### Arrival (R174, R176) -/

/-- The requests taken at arrival (R174). -/
def requestImmediate : Request → Bool
  | .getStatus => true
  | .stopAll => true
  | .alarmAck => true
  | .reset => true
  | _ => false

/-- A frame discarded because the reply list holds 8 replies or more (R176). -/
def overrunNow (p : Blocks) : Blocks := modLink (fun l => { l with overrun := true }) p

/-- An accepted request joins the request queue, or is answered BUSY (R174). -/
def joinQueue (q : Queued) (p : Blocks) : Blocks :=
  if p.link.requests.length < 4 then modLink (fun l => { l with requests := l.requests ++ [q] }) p
  else putReply (.refused q.tag q.kind .busy) p

/-- The arrival checks of an accepted frame, and the immediate requests (R174). -/
def checkFrame (q : Queued) (p : Blocks) : Blocks :=
  match q.content with
  | .unknownKind => takeQueued q p
  | .badLength => takeQueued q p
  | .badForm => joinQueue q p
  | .request r => if requestImmediate r then takeRequest q.tag q.kind r p else joinQueue q p

/-- An accepted frame arrives (R174, R176); while the settings load, it joins the queue unchecked (R18). -/
def arrive (q : Queued) (p : Blocks) : Blocks :=
  if 8 ≤ p.link.replies.length then overrunNow p
  else if p.store.loading then joinQueue q p
  else checkFrame q p

/-- A whole correct frame of a request arrives (log entry 1). -/
def arriveRequest (tag : Byte) (r : Request) (p : Blocks) : Blocks :=
  arrive { tag := tag, kind := kindOfRequest r, content := .request r } p

/-! ### The receive assembler (R173) -/

/-- A frame ends with a cause: it is discarded and a FRAME-REJECT made (R173, R176). -/
def rejectFrame (cause : FrameCause) (p : Blocks) : Blocks :=
  if 8 ≤ p.link.replies.length then overrunNow p else putReply (.frameReject cause) p

/-- Write the assembler. -/
def setAssembler (a : Assembler) (p : Blocks) : Blocks := modLink (fun l => { l with assembler := a }) p

/-- The byte that begins a frame (R183). -/
def startByte : Byte := 0xA5

/-- A complete frame: `len` is its length byte, `got` the bytes from the tag to the check value (R173). -/
def completeFrame (len : Nat) (got : List Byte) (p : Blocks) : Blocks :=
  match got.take len with
  | tag :: kind :: body =>
    if got.drop len = crcBytes (BitVec.ofNat 8 len :: tag :: kind :: body) then
      arrive { tag := tag, kind := kind, content := readRequest kind body } p
    else rejectFrame .check p
  | _ => rejectFrame .check p

/-- A byte arrives on the host link (R173). -/
def receiveByte (b : Byte) (p : Blocks) : Blocks :=
  match p.link.assembler with
  | .hunting => if b = startByte then setAssembler .length p else p
  | .length =>
    if 2 ≤ b.toNat ∧ b.toNat ≤ 252 then setAssembler (.body b.toNat []) p else rejectFrame .length (setAssembler .hunting p)
  | .body len got =>
    if (got ++ [b]).length < len + 2 then setAssembler (.body len (got ++ [b])) p
    else completeFrame len (got ++ [b]) (setAssembler .hunting p)

/-- More than 5 ms pass within a frame (R173). -/
def frameGap (p : Blocks) : Blocks :=
  match p.link.assembler with
  | .hunting => p
  | .length => rejectFrame .gap (setAssembler .hunting p)
  | .body _ _ => rejectFrame .gap (setAssembler .hunting p)

/-! ### The transmitter (R177, R178) -/

/-- An idle transmitter takes the oldest reply, or failing that the oldest notice (R177, R178; log entries 7 and 9). -/
def transmit (p : Blocks) : Blocks :=
  match p.link.transmitting, p.link.replies, p.link.notices with
  | some _, _, _ => p
  | none, r :: rest, _ => modLink (fun l => { l with transmitting := some (.reply r), replies := rest }) p
  | none, [], n :: rest =>
    modLink (fun l => { l with
      transmitting := some (.notice n l.lost (Config.noticeTag l.freeCount)), notices := rest, lost := false
      freeCount := l.freeCount + 1 }) p
  | none, [], [] => p

/-- The transmitter has finished sending a frame (R177). -/
def frameSent (p : Blocks) : Blocks := modLink (fun l => { l with transmitting := none }) p

/-- Requests still wait, for room in the reply list: an idle transmitter takes a reply, and requests that this lets in are taken (R175, R177). -/
def refill (p : Blocks) : Blocks := if p.link.requests.isEmpty then p else serve (transmit p)

/-- What every event ends with: queued requests that may be taken are taken, then the transmitter looks (R175, R177; log entry 7). -/
def finish (p : Blocks) : Blocks := transmit (refill (serve p))

/-- An event with effect `f` on the part happens whole. The queue of commands is not touched. -/
def happens (f : Blocks → Blocks) (s : State) : Host.Outcome State Fault Refusal := .next { s with part := finish (f s.part) }

/-! ### Power-up and the reset line (R18, R19, R182) -/

/-- Power is applied: non-volatile memory is kept, and a load begins (R18). -/
def powerUp (p : Blocks) : Blocks := Blocks.loadBegins p.store.areaA p.store.areaB p.store.note p.link.freeCount

/-- A pulse of the reset line, its start and its end in one, the model's choice (log entry 38): as power-up, but the day clock and its valid flag are kept, and the ticks run on, with a tick in the day clock's hand (R19, R148, R159). -/
def resetLine (p : Blocks) : Blocks :=
  modTime (fun u => { u with
      lastTick := p.time.lastTick, inHand := p.time.inHand.filter (fun t => decide (t = .dayClock)), second := p.time.second, weekday := p.time.weekday, fraction := p.time.fraction, valid := p.time.valid })
    (powerUp p)

end Sys2Proof.Machine
end

