-- ==== Sys2Proof/Machine/Encode.lean ====
section
/-! DEFINITION. The bytes that the host and the nodes see: reply and notice frames (R176, R178, R183; log entry 13), and transaction frames (R184). No command reads them: they say what `link.transmitting` and `bus.job` look like on the wires. -/

namespace Sys2Proof.Machine

/-! ### Fields (R183) -/

/-- A number in one byte. -/
def put1 (n : Nat) : List Byte := [BitVec.ofNat 8 n]
/-- A number in two bytes, the most significant first. -/
def put2 (n : Nat) : List Byte := [BitVec.ofNat 8 (n / 256), BitVec.ofNat 8 n]
/-- A number in three bytes, the most significant first. -/
def put3 (n : Nat) : List Byte := [BitVec.ofNat 8 (n / 65536), BitVec.ofNat 8 (n / 256), BitVec.ofNat 8 n]
/-- A yes or no, or a set or clear. -/
def putBool (b : Bool) : List Byte := put1 (if b then 1 else 0)
/-- A value's position in a list of names. -/
def putName {α : Type} [DecidableEq α] (names : List α) (x : α) : List Byte := put1 (names.idxOf x)
/-- An optional field. -/
def putOpt {α : Type} (f : α → List Byte) : Option α → List Byte
  | none => put1 0
  | some x => put1 1 ++ f x
/-- A list with its count of one byte. -/
def putList {α : Type} (f : α → List Byte) (xs : List α) : List Byte := put1 xs.length ++ (xs.map f).flatten

/-- The code of a reason (R176). -/
def reasonCode (w : Reason) : List Byte :=
  putName [.unknownKind, .badLength, .badField, .noShow, .showActive, .storeFull, .emptyShow, .slotFull, .already, .resting,
    .channelBusy, .channelReferenced, .alarm, .notAcknowledged, .notInAlarm, .notHeld, .wakePending, .clockNotSet,
    .badClass, .busy, .overtaken] w

/-- A class (R2). -/
def putClass (c : ShowClass) : List Byte := putName [.ambient, .feature, .notice, .override] c

/-- An origin: its position in the list of R43, and its number where it has one. -/
def putOrigin : Origin → List Byte
  | .link => put1 0
  | .trigger n => put1 1 ++ put1 n
  | .schedule n => put1 2 ++ put1 n
  | .showSet n => put1 3 ++ put1 n
  | .leader n => put1 4 ++ put1 n
  | .autostart => put1 5
  | .alarm => put1 6

/-- The state of a slot that is not FREE; FREE is 0 (R43). -/
def putSlotState (st : SlotState) : List Byte :=
  match st with
  | .pending => put1 1
  | .priming => put1 2
  | .running => put1 3
  | .held => put1 4
  | .suspended => put1 5

/-- The reason of an ending (R66). -/
def putEndReason (w : EndReason) : List Byte := putName [.complete, .stopped, .yielded, .leader, .alarm, .closed, .notReady] w

/-- The step of a refused start (R73). -/
def putStep (st : RefusalStep) : List Byte := putName [.check, .claim] st

/-- A wake set: SCHEDULE, then TRIGGER (R154). LINK, which is always in it, is not sent: the model's choice (log entry 13). -/
def putWake (w : WakeSet) : List Byte := putBool w.schedule ++ putBool w.trigger

/-! ### Records -/

/-- A cue record (R183). -/
def putCue (c : Cue) : List Byte :=
  put3 c.offset ++ (match c.action with
    | .play i clip lvl loop => put1 0 ++ put1 i ++ put2 clip ++ put1 lvl ++ putBool loop
    | .scene i scene fade => put1 1 ++ put1 i ++ put2 scene ++ put2 fade
    | .level i lvl fade => put1 2 ++ put1 i ++ put2 fade ++ put1 lvl ++ put1 0
    | .pulse i duration => put1 3 ++ put1 i ++ put2 duration ++ put2 0
    | .stop i => put1 4 ++ put1 i ++ put2 0 ++ put2 0
    | .hold timeout => put1 5 ++ put1 255 ++ put2 timeout ++ put2 0
    | .mark number => put1 6 ++ put1 255 ++ put2 0 ++ put1 number ++ put1 0)

/-- The fields of R2 after the id, without the cues. -/
def putHeader (h : ShowHeader) : List Byte :=
  putList put1 h.label ++ putClass h.cls ++ putList put1 h.channels ++ put3 h.length ++ put1 h.plays ++
  putName [.resume, .restart, .yield] h.preempt ++ putName [.wait, .refuse] h.conflict ++ putName [.strict, .lenient] h.primeMode ++
  put1 h.primeTimeout ++ put2 h.rest ++ putOpt put1 h.leader ++ putBool h.tied ++ putBool h.autostart ++ putBool h.keepClosed

/-- A channel entry after its channel number (R21). -/
def putEntry : Option ChannelEntry → List Byte
  | none => putBool false
  | some e => putBool true ++ put1 e.gallery ++ putName [.video, .audio, .light, .effect] e.kind ++ put1 e.node ++ put1 e.nodeChannel

/-- A last state (R26). -/
def putLast : LastState → List Byte
  | .play clip lvl loop offset => put1 0 ++ put2 clip ++ put1 lvl ++ putBool loop ++ put3 offset
  | .scene scene fade => put1 1 ++ put2 scene ++ put2 fade
  | .level lvl fade => put1 2 ++ put1 lvl ++ put2 fade

/-- A stack entry (R23). -/
def putStackEntry (e : StackEntry) : List Byte := putClass e.cls ++ put1 e.slot ++ put1 e.showId ++ putOpt putLast e.last

/-- A START's outcome (R47). -/
def putOutcome : StartOutcome → List Byte
  | .claimed => put1 0
  | .pending n => put1 1 ++ put2 n
  | .restarted => put1 2

/-- One outcome of START-SET (R127): its code, CLAIMED, PENDING or refused in that order, is the model's (log entry 13). -/
def putSetOutcome (o : Nat × StartResult) : List Byte :=
  put1 o.1 ++ (match o.2 with
    | .accepted _ (.pending n) => put1 1 ++ put2 n
    | .accepted _ _ => put1 0
    | .refused why step => put1 2 ++ reasonCode why ++ putStep step)

/-- A slot's fields (R43, R72). Endless repeats are 255, and an idle rest timer is an absent field (log entry 13). -/
def putSlot (k : Nat) (r : SlotRec) (holdSeconds restSeconds : Option Nat) : List Byte :=
  put1 k ++ putSlotState r.state ++ put1 r.showId ++ putClass r.cls ++ putOrigin r.origin ++ put1 r.step ++ put2 r.pointer ++
  put3 r.clock ++ put1 (r.repeats.getD 255) ++ putOpt put2 holdSeconds ++ putOpt put2 r.primeTimer ++ putBool r.heldWhenSuspended ++
  putOpt put2 r.waitEntry ++ putBool r.late ++ putList put1 r.missing ++ put2 r.skipped ++ putOpt put1 r.group ++ putOpt put2 restSeconds

/-- A node (R108). -/
def putNode (v : NodeView) : List Byte :=
  putName [.present, .absent] v.record.presence ++ put1 v.record.failures ++ putBool v.record.toggle ++
  putOpt (putName [NakReason.noMedia, .busy, .badRequest]) v.record.lastNak ++ putBool v.referenced

/-- A line's settings (R110). -/
def putLine (s : LineSettings) : List Byte :=
  putBool s.enabled ++ putName [.high, .low] s.activeLevel ++ putName [.rising, .falling, .both] s.edge ++ put1 s.stableCount ++
  put2 s.repeatDelay ++ put2 s.repeatInterval ++ putBool s.report ++ putBool s.wake

/-- A source's settings (R116). The target, which R116 calls absent for NOTE, stands behind a presence byte that is 0 for NOTE: the model's choice (log entry 13). -/
def putRoute (s : RouteSettings) : List Byte :=
  putBool s.enabled ++ putName [.start, .startRestart, .startSet, .stop, .release, .note] s.action ++ putOpt put1 s.target ++
  put2 s.rearm ++ putBool s.report

/-- A set's list and mode (R125). -/
def putSet (s : SetSettings) : List Byte := putList put1 s.shows ++ putName [.cycle, .all] s.mode

/-- A gallery's settings (R137). -/
def putGallery (s : GallerySettings) : List Byte := put2 s.low ++ put2 s.high ++ put1 s.stuckCount

/-- Every field of a gallery, in the order of R131. -/
def putGalleryView (v : GalleryView) : List Byte :=
  putOpt put2 v.work.sample ++ putOpt put2 v.work.previous ++ put2 v.settings.low ++ put2 v.settings.high ++
  putBool v.work.highFlag ++ putBool v.work.lowFlag ++ putBool v.work.stuckFlag ++ put1 v.settings.stuckCount ++
  put1 v.work.equalRun ++ putBool v.work.runReported ++ put2 v.work.minimum ++ put2 v.work.maximum

/-- A law's settings (R138). -/
def putLaw (s : LawSettings) : List Byte :=
  put1 s.gallery ++ (s.curve.map (fun q => put2 q.level ++ put1 q.gain)).flatten ++ putBool s.interpolate ++ put1 s.upRate ++
  put1 s.downRate ++ putBool s.jumpHigh ++ putBool s.jumpLow ++ put1 s.hysteresis

/-- A schedule entry (R154). The target, which R154 calls absent for OPEN and CLOSE, and the wake set, which a CLOSE alone has, each stand behind a presence byte that is 0 for the other actions: the model's choice (log entry 13). -/
def putSchedule (e : ScheduleEntry) : List Byte :=
  putBool e.enabled ++ put1 e.mask.toNat ++ put3 e.second ++ putName [.start, .startSet, .stop, .openHouse, .closeHouse] e.action ++
  putOpt put1 e.target ++ putOpt putWake e.wake

/-- A timebase source and a timebase state (R147). -/
def putSource (s : TimeSource) : List Byte := putName [.internal, .sync] s
/-- A timebase state, in the order of R147's sentences; its table names SYNC-LOST before LOCKED (log entry 13). -/
def putTimebase (s : TimebaseState) : List Byte := putName [.internal, .locked, .syncLost] s
/-- A house mode (R160). -/
def putMode (m : HouseMode) : List Byte := putName [.opened, .closed] m
/-- An alarm state (R164). -/
def putAlarm (s : AlarmState) : List Byte := putName [.normal, .alarm, .alarmHeld] s

/-- The alert output, driven or released (R164). -/
def putAlert (driven : Bool) : List Byte := putName [true, false] driven

/-- The items of GET-STATUS (R179). -/
def putStatus (v : StatusView) : List Byte :=
  putMode v.mode ++ putWake v.wake ++ putAlarm v.alarmState ++ putBool v.acknowledged ++ putAlert v.alert ++ putSource v.source ++
  putTimebase v.timebase ++ putBool v.clockValid ++ (v.slotCounts.map put1).flatten ++ put2 v.cuesUsed ++ putBool v.saving ++
  putBool v.attention ++ putBool v.lost ++ putBool v.overrun ++ put1 v.waiting ++ putBool v.executing

/-- The outcome of a save: GOOD, then FAILED, in the order of R16's sentences (log entry 13). -/
def putSaved (good : Bool) : List Byte := put1 (if good then 0 else 1)

/-! ### Replies (R176, R183) -/

/-- The body of an OK reply, after its first byte. The forms that no rule fixes are log entry 13's, among them STOP's presence byte, 0 where the show was not active, an entry's fields without its number (R157), a value that a rule calls absent, an idle rearm timer and an undefined set as absent optional fields, the rate of SET-TIMEBASE behind a presence byte, 0 and nothing where the source is INTERNAL (R151), the removal of a law answered by the yes or no alone, without the channel number (R144), and the clock as now set as its second and weekday, without the tick fraction and the valid flag (R153). -/
def putOk : OkBody → List Byte
  | .showDefined id removed used => put1 id ++ put2 removed ++ put2 used
  | .cuesAppended id first count used => put1 id ++ put2 first ++ put2 count ++ put2 used
  | .showErased id removed used => put1 id ++ put2 removed ++ put2 used
  | .header id fields count => put1 id ++ putHeader fields ++ put2 count
  | .page id start count cues => put1 id ++ put2 start ++ put2 count ++ putList putCue cues
  | .saved good generation => putSaved good ++ put2 generation
  | .channelSet channel entry => put1 channel ++ putEntry entry
  | .channel channel entry entries => put1 channel ++ putEntry entry ++ putList putStackEntry entries
  | .galleryStopped gallery ended => put1 gallery ++ put1 ended
  | .started slot outcome => put1 slot ++ putOutcome outcome
  | .stopped slot => putOpt (fun q => put1 q.1 ++ putSlotState q.2) slot
  | .released slot cue => put1 slot ++ put2 cue
  | .freeSlot slot => put1 slot ++ put1 0
  | .slot slot fields holdSeconds restSeconds => putSlot slot fields holdSeconds restSeconds
  | .bus timeout retries => put1 timeout ++ put1 retries
  | .nodes table queued onBus => (table.map putNode).flatten ++ put1 queued ++ putBool onBus
  | .line number settings => put1 number ++ putLine settings
  | .route source settings taken => put1 source ++ putRoute settings ++ putBool taken
  | .pendingCleared count => put1 count
  | .showSet number settings => put1 number ++ putOpt putSet settings
  | .setStarted number mode pointer outcomes =>
    put1 number ++ putName [.cycle, .all] mode ++ put1 pointer ++ putList putSetOutcome outcomes
  | .lines start table =>
    put1 0 ++ put1 start ++ putList (fun v => putLine v.settings ++ putOpt (putName [LineState.active, .inactive]) v.qualified) table
  | .sources start table =>
    put1 1 ++ put1 start ++ putList (fun v => putRoute v.settings ++ putBool v.pending ++ putOpt put2 v.rearm) table
  | .sets start table => put1 2 ++ put1 start ++ putList (putOpt (fun v => putSet v.settings ++ put1 v.pointer)) table
  | .levelFlags flags => (flags.map (fun f => putBool f.1 ++ putBool f.2.1 ++ putBool f.2.2)).flatten
  | .levels start table attention => put1 start ++ putList putGalleryView table ++ putBool attention
  | .gallery number settings => put1 number ++ putGallery settings
  | .lawWritten channel settings target current trimQueued =>
    put1 channel ++ putLaw settings ++ putOpt put1 target ++ putOpt put1 current ++ putBool trimQueued
  | .lawRemoved _ had => putBool had
  | .law _ view =>
    putOpt (fun v => putLaw v.settings ++ putOpt put1 v.work.target ++ putOpt put1 v.work.current ++ putOpt put1 v.work.lastSent ++
      putBool v.work.frozen) view
  | .timebase source rate state => putSource source ++ putOpt put1 rate ++ putTimebase state
  | .clock second weekday => put3 second ++ put1 weekday
  | .entry _ settings => putSchedule settings
  | .houseClosed wake ended => putWake wake ++ put1 ended
  | .houseOpen mode carriedOut => putMode mode ++ putBool carriedOut
  | .acknowledged state released => putAlarm state ++ putBool released
  | .resumed autostarts => put1 autostarts
  | .alarmSettings showId ackTime => putOpt put1 showId ++ put1 ackTime
  | .status view => putStatus view
  | .stoppedAll ended => put1 ended
  | .resetTaken => []

/-- A frame with its length byte and check value (R183). -/
def frameOf (tag kind : Byte) (body : List Byte) : List Byte :=
  let inner := BitVec.ofNat 8 (body.length + 2) :: tag :: kind :: body
  startByte :: inner ++ crcBytes inner

/-- The kind of a reply: the request's kind plus 128, which fits for every request kind (R183; log entry 10). -/
def replyKind (kind : Byte) : Byte := if kind.toNat < 128 then kind + 128 else Config.highKindReply kind

/-- The cause of a FRAME-REJECT (R183). -/
def putCause (c : FrameCause) : List Byte := putName [.check, .length, .gap] c

/-- A reply's frame (R176, R183). -/
def replyBytes : Reply → List Byte
  | .ok tag kind body => frameOf tag (replyKind kind) (put1 0 ++ putOk body)
  | .refused tag kind why => frameOf tag (replyKind kind) (put1 1 ++ reasonCode why ++ [kind])
  | .frameReject cause => frameOf 0 255 (putCause cause)

/-! ### Notices (R178, R183) -/

/-- The cause of a CUE-LOST notice, with a node's reason after REFUSED (R99). -/
def putLost : LostCause → List Byte
  | .queueFull => put1 0
  | .refused why => put1 1 ++ putName [.noMedia, .busy, .badRequest] why
  | .noAnswer => put1 2

/-- A direction (R114). -/
def putDirection (d : Direction) : List Byte := putName [.press, .release] d

/-- The fields of a TRIGGER notice after its source: a direction and whether it was an event for CHANGE and REPEAT (R114); for NOTE a direction that a level source's does not carry (R120; log entry 13). -/
def putTrigger (direction : Option Direction) (cause : TriggerCause) (event : Option Bool) : List Byte :=
  match cause with
  | .note => putOpt putDirection direction
  | _ => direction.elim [] putDirection ++ event.elim [] putBool

/-- The cause of an opening (R162). -/
def putOpenCause : OpenCause → List Byte
  | .link => put1 0
  | .schedule e => put1 1 ++ put1 e
  | .trigger l => put1 2 ++ put1 l

/-- The origin of a closing (R161). -/
def putCloseOrigin : CloseOrigin → List Byte
  | .link => put1 0
  | .schedule e => put1 1 ++ put1 e

/-- A notice's kind, and its variant and fields (section 10.4; log entry 13). -/
def putNoticeFields : Notice → Nat × List Byte
  | .showStarted k id origin missing late => (64, put1 k ++ put1 id ++ putOrigin origin ++ putList put1 missing ++ putBool late)
  | .showEnded k id origin reason step skipped =>
    (65, put1 k ++ put1 id ++ putOrigin origin ++ putEndReason reason ++ put1 step ++ put2 skipped)
  | .showSuspended k id by_ step held => (66, put1 k ++ put1 id ++ put1 by_ ++ put1 step ++ putBool held)
  | .showResumed k id late held reprimes => (67, put1 k ++ put1 id ++ putBool late ++ putBool held ++ putBool reprimes)
  | .showHeld k id cue timeout => (68, put1 k ++ put1 id ++ put2 cue ++ put2 timeout)
  | .mark k id number cue clock => (69, put1 k ++ put1 id ++ put1 number ++ put2 cue ++ put3 clock)
  | .cueLost k id cue channel cause => (70, put1 k ++ put1 id ++ put2 cue ++ put1 channel ++ putLost cause)
  | .startRefused origin id why step => (71, putOrigin origin ++ putOpt put1 id ++ reasonCode why ++ putStep step)
  | .trigger source direction cause event => (72, putName [TriggerCause.change, .repeated, .note] cause ++ put1 source ++ putTrigger direction cause event)
  | .level variant gallery sample => (73, putName [LevelVariant.high, .low, .stuck, .moving] variant ++ put1 gallery ++ put2 sample)
  | .node presence number => (74, putName [Presence.absent, .present] presence ++ put1 number)
  | .sync locked rate => (75, put1 (if locked then 0 else 1) ++ put1 rate)
  | .houseOpen cause => (76, put1 0 ++ putOpenCause cause)
  | .houseClosed wake origin => (76, put1 1 ++ putWake wake ++ putCloseOrigin origin)
  | .closeRefused e why => (76, put1 2 ++ put1 e ++ reasonCode why)
  | .alarm variant => (77, putName [AlarmVariant.entered, .held, .reasserted, .escalated, .cleared] variant)
  | .storeLoaded generation shows cues => (78, put2 generation ++ put1 shows ++ put2 cues)
  | .storeEmpty => (79, [])
  | .storeSaved good generation => (80, putSaved good ++ put2 generation)
  | .resetDone => (81, [])

/-- The bytes of a frame that the transmitter sends. -/
def frameBytes : TxFrame → List Byte
  | .reply r => replyBytes r
  | .notice n lostBefore tag =>
    frameOf tag (BitVec.ofNat 8 (putNoticeFields n).1) (putBool lostBefore ++ (putNoticeFields n).2)

/-! ### Transactions (R184) -/

/-- A transaction's kind, numbered in the order of R89, and its payload. -/
def putTxKind : TxKind → Nat × List Byte
  | .prepare clip => (0, put2 clip)
  | .play clip lvl loop resume start => (1, put2 clip ++ put1 lvl ++ putBool loop ++ putBool resume ++ put3 start)
  | .scene scene fade => (2, put2 scene ++ put2 fade)
  | .level lvl fade => (3, put1 lvl ++ put2 fade)
  | .pulse duration => (4, put2 duration)
  | .pause => (5, [])
  | .stop => (6, [])
  | .trim gain => (7, put1 gain)
  | .poll => (8, [])
  | .hush => (9, [])

/-- The frame of a transaction on the gallery bus (R184). -/
def busFrameBytes (t : Transaction) : List Byte :=
  let payload := (putTxKind t.kind).2
  let flags := (if t.toggle = some true then 128 else 0) + (putTxKind t.kind).1 * 8 + t.nodeChannel.getD 0
  let inner := put1 t.node ++ put1 flags ++ put1 payload.length ++ payload
  0x5A#8 :: inner ++ crcBytes inner

end Sys2Proof.Machine
end

