-- ==== Sys2Proof/Machine/EventMeanings.lean ====
section
/-! DEFINITION. The meanings of the commands that are no requests: power, bytes and frames of the links, time, samples, and the gallery bus. -/

namespace Sys2Proof.Machine

/-- A running rest timer is brought to its end (R69; log entry 4). -/
def restExpires (showId : Nat) (p : Blocks) : Blocks :=
  { p with runner := { p.runner with rest := tset p.runner.rest showId none } }

/-- A running rearm timer is brought to its end (R118; log entry 4). -/
def rearmExpires (source : Nat) (p : Blocks) : Blocks := modSource source (fun w => { w with rearm := none }) p

/-- The polling round that is due is made; none while the settings load (R103; log entry 4). -/
def pollNow (p : Blocks) : Blocks :=
  if p.store.loading then p else pollingRound { p with bus := { p.bus with pollTicks := 0 } }

/-- A running escalation timer is brought to its end (R167; log entry 4). -/
def escalationExpires (p : Blocks) : Blocks :=
  match p.house.escalation with
  | none => p
  | some _ => escalate p

/-- A taker that has the tick in hand takes it, at an event of its own (R148). -/
def takerEvent (p : Blocks) (t : TickTaker) : Blocks := if p.time.inHand.contains t then finish (takeTick t (putDown t p)) else p

/-- Takers of a list take the tick they have in hand, one after another (R148). -/
def takerEvents (ts : List TickTaker) (p : Blocks) : Blocks := ts.foldl takerEvent p

/-- A tick instant, an event of its own: takers that still have the tick before in hand take that one first (R147, R148; log entry 5). -/
def nextInstant (p : Blocks) : Blocks := finish (tickInstant (takerEvents allTakers p))

/-- A show tick (R148): the instant, where there is one, and the takers that take it now, in the command's order. Where a timer's end and a start fall on one tick, or a show's end reaches a slot that has not yet taken it, so that R35, R45, R55, R62, R69 and R83 make the order matter, that order decides: the model's choice (log entry 5). -/
def showTick (o : TickOrder) (p : Blocks) : Blocks :=
  takerEvents ((o.first ++ allTakers).filter (fun t => !o.late.contains t)) (if o.instant then nextInstant p else p)

/-- POWER_UP (R18): non-volatile memory is kept and a settings load begins. -/
def execPowerUp (s : State) : Host.Outcome State Fault Refusal := happens powerUp s

/-- RESET_LINE_PULSE (R19): as power-up, the day clock kept; the whole pulse in one command (log entry 38). -/
def execResetLinePulse (s : State) : Host.Outcome State Fault Refusal := happens resetLine s

/-- SETTINGS_LOAD_END (R18); no effect when no load runs (log entry 22). -/
def execSettingsLoadEnd (s : State) : Host.Outcome State Fault Refusal := happens endLoad s

/-- RECEIVE_BYTE (R173). -/
def execReceiveByte (b : Byte) (s : State) : Host.Outcome State Fault Refusal := happens (receiveByte b) s

/-- FRAME_GAP (R173); no effect in HUNTING. -/
def execFrameGap (s : State) : Host.Outcome State Fault Refusal := happens frameGap s

/-- TRANSMIT_FRAME_END (R177). -/
def execTransmitFrameEnd (s : State) : Host.Outcome State Fault Refusal := happens frameSent s

/-- SAVE_WRITE_END (R16); no effect when no save writes (log entry 22). -/
def execSaveWriteEnd (passes : Bool) (s : State) : Host.Outcome State Fault Refusal := happens (endSave passes) s

/-- SHOW_TICK (R148): the tick instant and each taking of the tick are events of their own. -/
def execShowTick (order : TickOrder) (s : State) : Host.Outcome State Fault Refusal := .next { s with part := showTick order s.part }

/-- PRIME_TIMEOUT (R51, R80): a running prime timer is brought to its end (log entry 4). -/
def execPrimeTimeout (slot : Nat) (s : State) : Host.Outcome State Fault Refusal := happens (primeExpires slot) s

/-- HOLD_TIMEOUT (R59): a running hold deadline is brought to its end (log entry 4). -/
def execHoldTimeout (slot : Nat) (s : State) : Host.Outcome State Fault Refusal := happens (holdExpires slot) s

/-- REST_TIMER_EXPIRY (R69): the timer becomes idle (log entry 4). -/
def execRestTimerExpiry (showId : Nat) (s : State) : Host.Outcome State Fault Refusal := happens (restExpires showId) s

/-- REARM_TIMER_EXPIRY (R118): the timer becomes idle (log entry 4). -/
def execRearmTimerExpiry (source : Nat) (s : State) : Host.Outcome State Fault Refusal := happens (rearmExpires source) s

/-- POLLING_ROUND (R103): the round that is due is made (log entry 4). -/
def execPollingRound (s : State) : Host.Outcome State Fault Refusal := happens pollNow s

/-- ESCALATION (R167): a running escalation timer is brought to its end (log entry 4). -/
def execEscalation (s : State) : Host.Outcome State Fault Refusal := happens escalationExpires s

/-- DAY_CLOCK_ADVANCE (R152): the second that is due is taken (log entry 4). -/
def execDayClockAdvance (s : State) : Host.Outcome State Fault Refusal := happens dayAdvance s

/-- SYNC_PULSE (R149). -/
def execSyncPulse (time : Nat) (s : State) : Host.Outcome State Fault Refusal := happens (syncPulse time) s

/-- SYNC_LOST (R150); no effect unless LOCKED. -/
def execSyncLost (s : State) : Host.Outcome State Fault Refusal := happens syncLoss s

/-- LINE_SAMPLE (R111). -/
def execLineSample (line : Nat) (high : Bool) (s : State) : Host.Outcome State Fault Refusal := happens (lineSample line high) s

/-- REPEAT_EVENT (R113): a running countdown is brought to its end (log entry 4). -/
def execRepeatEvent (line : Nat) (s : State) : Host.Outcome State Fault Refusal := happens (repeatEvent line) s

/-- LEVEL_SAMPLE (R132). -/
def execLevelSample (gallery reading : Nat) (s : State) : Host.Outcome State Fault Refusal := happens (levelSample gallery reading) s

/-- ALARM_LINE_SAMPLE (R164). -/
def execAlarmLineSample (asserted : Bool) (s : State) : Host.Outcome State Fault Refusal := happens (alarmSample asserted) s

/-- NODE_REPLY (R95). -/
def execNodeReply (bytes : List Byte) (s : State) : Host.Outcome State Fault Refusal := happens (nodeReply bytes) s

/-- REPLY_TIMEOUT (R95). -/
def execReplyTimeout (s : State) : Host.Outcome State Fault Refusal := happens replyTimeout s

/-- HUSH_SENT (R100). -/
def execHushSent (s : State) : Host.Outcome State Fault Refusal := happens hushSent s

end Sys2Proof.Machine
end

