-- ==== Sys2Proof/Machine/RequestMeanings.lean ====
section
/-! DEFINITION. The meanings of the requests: each is the arrival of a whole, correct frame (log entry 1), which is taken at once, waits in the request queue, or is refused (R174, R175). -/

namespace Sys2Proof.Machine

/-- DEFINE_SHOW (R6, R7). -/
def execDefineShow (tag : Byte) (r : DefineShowReq) (s : State) : Host.Outcome State Fault Refusal := happens (arriveRequest tag (.defineShow r)) s

/-- APPEND_CUES (R8, R9). -/
def execAppendCues (tag : Byte) (r : AppendCuesReq) (s : State) : Host.Outcome State Fault Refusal := happens (arriveRequest tag (.appendCues r)) s

/-- ERASE_SHOW (R10). -/
def execEraseShow (tag : Byte) (id : Nat) (s : State) : Host.Outcome State Fault Refusal := happens (arriveRequest tag (.eraseShow id)) s

/-- READ_SHOW_HEADER (R11). -/
def execReadShowHeader (tag : Byte) (id : Nat) (s : State) : Host.Outcome State Fault Refusal := happens (arriveRequest tag (.readShowHeader id)) s

/-- READ_SHOW_PAGE (R12). -/
def execReadShowPage (tag : Byte) (id start : Nat) (s : State) : Host.Outcome State Fault Refusal := happens (arriveRequest tag (.readShowPage id start)) s

/-- SAVE_STORE (R16). -/
def execSaveStore (tag : Byte) (s : State) : Host.Outcome State Fault Refusal := happens (arriveRequest tag .saveStore) s

/-- SET_CHANNEL (R22). -/
def execSetChannel (tag : Byte) (r : SetChannelReq) (s : State) : Host.Outcome State Fault Refusal := happens (arriveRequest tag (.setChannel r)) s

/-- GET_CHANNEL (R23). -/
def execGetChannel (tag : Byte) (channel : Nat) (s : State) : Host.Outcome State Fault Refusal := happens (arriveRequest tag (.getChannel channel)) s

/-- STOP_GALLERY (R41). -/
def execStopGallery (tag : Byte) (gallery : Nat) (s : State) : Host.Outcome State Fault Refusal := happens (arriveRequest tag (.stopGallery gallery)) s

/-- START (R47). -/
def execStart (tag : Byte) (id option : Nat) (s : State) : Host.Outcome State Fault Refusal := happens (arriveRequest tag (.startShow id option)) s

/-- STOP (R68). -/
def execStop (tag : Byte) (id : Nat) (s : State) : Host.Outcome State Fault Refusal := happens (arriveRequest tag (.stopShow id)) s

/-- RELEASE (R61). -/
def execRelease (tag : Byte) (id : Nat) (s : State) : Host.Outcome State Fault Refusal := happens (arriveRequest tag (.release id)) s

/-- GET_SLOT (R72). -/
def execGetSlot (tag : Byte) (slot : Nat) (s : State) : Host.Outcome State Fault Refusal := happens (arriveRequest tag (.getSlot slot)) s

/-- SET_BUS (R107). -/
def execSetBus (tag : Byte) (timeout retries : Nat) (s : State) : Host.Outcome State Fault Refusal := happens (arriveRequest tag (.setBus timeout retries)) s

/-- GET_NODES (R108). -/
def execGetNodes (tag : Byte) (s : State) : Host.Outcome State Fault Refusal := happens (arriveRequest tag .getNodes) s

/-- SET_LINE (R115). -/
def execSetLine (tag : Byte) (r : SetLineReq) (s : State) : Host.Outcome State Fault Refusal := happens (arriveRequest tag (.setLine r)) s

/-- SET_ROUTE (R122). -/
def execSetRoute (tag : Byte) (r : SetRouteReq) (s : State) : Host.Outcome State Fault Refusal := happens (arriveRequest tag (.setRoute r)) s

/-- CLEAR_PENDING (R123). -/
def execClearPending (tag : Byte) (chosen : BitVec 64) (s : State) : Host.Outcome State Fault Refusal := happens (arriveRequest tag (.clearPending chosen)) s

/-- DEFINE_SET (R125). -/
def execDefineSet (tag : Byte) (r : DefineSetReq) (s : State) : Host.Outcome State Fault Refusal := happens (arriveRequest tag (.defineSet r)) s

/-- START_SET (R127). -/
def execStartSet (tag : Byte) (number : Nat) (s : State) : Host.Outcome State Fault Refusal := happens (arriveRequest tag (.startSet number)) s

/-- GET_TRIGGERS (R128). -/
def execGetTriggers (tag : Byte) (table start : Nat) (s : State) : Host.Outcome State Fault Refusal := happens (arriveRequest tag (.getTriggers table start)) s

/-- CLEAR_LEVEL_FLAGS (R135). -/
def execClearLevelFlags (tag : Byte) (chosen : BitVec 48) (s : State) : Host.Outcome State Fault Refusal := happens (arriveRequest tag (.clearLevelFlags chosen)) s

/-- GET_LEVELS (R136). -/
def execGetLevels (tag : Byte) (start : Nat) (s : State) : Host.Outcome State Fault Refusal := happens (arriveRequest tag (.getLevels start)) s

/-- SET_GALLERY (R137). -/
def execSetGallery (tag : Byte) (r : SetGalleryReq) (s : State) : Host.Outcome State Fault Refusal := happens (arriveRequest tag (.setGallery r)) s

/-- SET_LAW, a write (R144). -/
def execSetLaw (tag : Byte) (r : SetLawReq) (s : State) : Host.Outcome State Fault Refusal := happens (arriveRequest tag (.setLaw r)) s

/-- SET_LAW_REMOVAL (R144). -/
def execSetLawRemoval (tag : Byte) (channel : Nat) (s : State) : Host.Outcome State Fault Refusal := happens (arriveRequest tag (.removeLaw channel)) s

/-- GET_LAW (R144). -/
def execGetLaw (tag : Byte) (channel : Nat) (s : State) : Host.Outcome State Fault Refusal := happens (arriveRequest tag (.getLaw channel)) s

/-- SET_TIMEBASE (R151). -/
def execSetTimebase (tag : Byte) (source : Nat) (rate : OptField) (s : State) : Host.Outcome State Fault Refusal := happens (arriveRequest tag (.setTimebase source rate)) s

/-- SET_TIME (R153). -/
def execSetTime (tag : Byte) (second weekday : Nat) (s : State) : Host.Outcome State Fault Refusal := happens (arriveRequest tag (.setTime second weekday)) s

/-- GET_TIME (R153). -/
def execGetTime (tag : Byte) (s : State) : Host.Outcome State Fault Refusal := happens (arriveRequest tag .getTime) s

/-- SET_ENTRY (R157). -/
def execSetEntry (tag : Byte) (r : SetEntryReq) (s : State) : Host.Outcome State Fault Refusal := happens (arriveRequest tag (.setEntry r)) s

/-- GET_ENTRY (R157). -/
def execGetEntry (tag : Byte) (entry : Nat) (s : State) : Host.Outcome State Fault Refusal := happens (arriveRequest tag (.getEntry entry)) s

/-- CLOSE (R161). -/
def execCloseHouse (tag : Byte) (wake : WakeReq) (s : State) : Host.Outcome State Fault Refusal := happens (arriveRequest tag (.closeHouse wake)) s

/-- OPEN (R163). -/
def execOpenHouse (tag : Byte) (s : State) : Host.Outcome State Fault Refusal := happens (arriveRequest tag .openHouse) s

/-- ALARM_ACK (R167). -/
def execAlarmAck (tag : Byte) (s : State) : Host.Outcome State Fault Refusal := happens (arriveRequest tag .alarmAck) s

/-- RESUME (R169). -/
def execResume (tag : Byte) (s : State) : Host.Outcome State Fault Refusal := happens (arriveRequest tag .resume) s

/-- SET_ALARM (R170). -/
def execSetAlarm (tag : Byte) (showId : OptField) (ackTime : Nat) (s : State) : Host.Outcome State Fault Refusal := happens (arriveRequest tag (.setAlarm showId ackTime)) s

/-- GET_STATUS (R179). -/
def execGetStatus (tag : Byte) (s : State) : Host.Outcome State Fault Refusal := happens (arriveRequest tag .getStatus) s

/-- STOP_ALL (R180). -/
def execStopAll (tag : Byte) (s : State) : Host.Outcome State Fault Refusal := happens (arriveRequest tag .stopAll) s

/-- RESET (R181). -/
def execReset (tag : Byte) (s : State) : Host.Outcome State Fault Refusal := happens (arriveRequest tag .reset) s

end Sys2Proof.Machine
end

