-- ==== Sys2Proof/Machine/Dispatch.lean ====
section
/-! DEFINITION. One arm per command: its meaning. -/

namespace Sys2Proof.Machine

def exec (i : Instr) (s : State) : Host.Outcome State Fault Refusal :=
  match i with
  | .powerUp => Sys2Proof.Machine.execPowerUp s
  | .resetLinePulse => Sys2Proof.Machine.execResetLinePulse s
  | .settingsLoadEnd => Sys2Proof.Machine.execSettingsLoadEnd s
  | .receiveByte b => Sys2Proof.Machine.execReceiveByte b s
  | .frameGap => Sys2Proof.Machine.execFrameGap s
  | .transmitFrameEnd => Sys2Proof.Machine.execTransmitFrameEnd s
  | .defineShow tag r => Sys2Proof.Machine.execDefineShow tag r s
  | .appendCues tag r => Sys2Proof.Machine.execAppendCues tag r s
  | .eraseShow tag id => Sys2Proof.Machine.execEraseShow tag id s
  | .readShowHeader tag id => Sys2Proof.Machine.execReadShowHeader tag id s
  | .readShowPage tag id start => Sys2Proof.Machine.execReadShowPage tag id start s
  | .saveStore tag => Sys2Proof.Machine.execSaveStore tag s
  | .saveWriteEnd passes => Sys2Proof.Machine.execSaveWriteEnd passes s
  | .setChannel tag r => Sys2Proof.Machine.execSetChannel tag r s
  | .getChannel tag channel => Sys2Proof.Machine.execGetChannel tag channel s
  | .stopGallery tag gallery => Sys2Proof.Machine.execStopGallery tag gallery s
  | .start tag id option => Sys2Proof.Machine.execStart tag id option s
  | .stop tag id => Sys2Proof.Machine.execStop tag id s
  | .release tag id => Sys2Proof.Machine.execRelease tag id s
  | .getSlot tag slot => Sys2Proof.Machine.execGetSlot tag slot s
  | .setBus tag timeout retries => Sys2Proof.Machine.execSetBus tag timeout retries s
  | .getNodes tag => Sys2Proof.Machine.execGetNodes tag s
  | .setLine tag r => Sys2Proof.Machine.execSetLine tag r s
  | .setRoute tag r => Sys2Proof.Machine.execSetRoute tag r s
  | .clearPending tag chosen => Sys2Proof.Machine.execClearPending tag chosen s
  | .defineSet tag r => Sys2Proof.Machine.execDefineSet tag r s
  | .startSet tag number => Sys2Proof.Machine.execStartSet tag number s
  | .getTriggers tag table start => Sys2Proof.Machine.execGetTriggers tag table start s
  | .clearLevelFlags tag chosen => Sys2Proof.Machine.execClearLevelFlags tag chosen s
  | .getLevels tag start => Sys2Proof.Machine.execGetLevels tag start s
  | .setGallery tag r => Sys2Proof.Machine.execSetGallery tag r s
  | .setLaw tag r => Sys2Proof.Machine.execSetLaw tag r s
  | .setLawRemoval tag channel => Sys2Proof.Machine.execSetLawRemoval tag channel s
  | .getLaw tag channel => Sys2Proof.Machine.execGetLaw tag channel s
  | .setTimebase tag source rate => Sys2Proof.Machine.execSetTimebase tag source rate s
  | .setTime tag second weekday => Sys2Proof.Machine.execSetTime tag second weekday s
  | .getTime tag => Sys2Proof.Machine.execGetTime tag s
  | .setEntry tag r => Sys2Proof.Machine.execSetEntry tag r s
  | .getEntry tag entry => Sys2Proof.Machine.execGetEntry tag entry s
  | .closeHouse tag wake => Sys2Proof.Machine.execCloseHouse tag wake s
  | .openHouse tag => Sys2Proof.Machine.execOpenHouse tag s
  | .alarmAck tag => Sys2Proof.Machine.execAlarmAck tag s
  | .resume tag => Sys2Proof.Machine.execResume tag s
  | .setAlarm tag showId ackTime => Sys2Proof.Machine.execSetAlarm tag showId ackTime s
  | .getStatus tag => Sys2Proof.Machine.execGetStatus tag s
  | .stopAll tag => Sys2Proof.Machine.execStopAll tag s
  | .reset tag => Sys2Proof.Machine.execReset tag s
  | .showTick order => Sys2Proof.Machine.execShowTick order s
  | .primeTimeout slot => Sys2Proof.Machine.execPrimeTimeout slot s
  | .holdTimeout slot => Sys2Proof.Machine.execHoldTimeout slot s
  | .restTimerExpiry showId => Sys2Proof.Machine.execRestTimerExpiry showId s
  | .rearmTimerExpiry source => Sys2Proof.Machine.execRearmTimerExpiry source s
  | .pollingRound => Sys2Proof.Machine.execPollingRound s
  | .escalation => Sys2Proof.Machine.execEscalation s
  | .dayClockAdvance => Sys2Proof.Machine.execDayClockAdvance s
  | .syncPulse time => Sys2Proof.Machine.execSyncPulse time s
  | .syncLost => Sys2Proof.Machine.execSyncLost s
  | .lineSample line high => Sys2Proof.Machine.execLineSample line high s
  | .repeatEvent line => Sys2Proof.Machine.execRepeatEvent line s
  | .levelSample gallery reading => Sys2Proof.Machine.execLevelSample gallery reading s
  | .alarmLineSample asserted => Sys2Proof.Machine.execAlarmLineSample asserted s
  | .nodeReply bytes => Sys2Proof.Machine.execNodeReply bytes s
  | .replyTimeout => Sys2Proof.Machine.execReplyTimeout s
  | .hushSent => Sys2Proof.Machine.execHushSent s

end Sys2Proof.Machine
end

