-- ==== Sys2Proof/Machine/Step.lean ====
section
/-! DEFINITION. One step: the command at the front of the queue, or nothing. -/

namespace Sys2Proof.Machine

/-- Take the command at the front of the queue and run it on the rest; on an empty queue the part idles (log entry 3). -/
def step (s : State) : Host.Outcome State Fault Refusal :=
  match s.pending with
  | [] => .next s
  | c :: rest => exec c { s with pending := rest }

/-- The state with the command that a word spells put at the front of its queue; unchanged where the word spells none. -/
def State.withFetchWord (s : State) (nbits w : Nat) : State :=
  match decodeTableWord nbits w with
  | none => s
  | some c => { s with pending := c :: s.pending }

end Sys2Proof.Machine
end

