-- ==== Sys2Proof/Safety.lean ====
section
/-! DEFINITION. The conditions that every step keeps, each from the rule that states it, and the conditions on a state that the statements assume. -/

namespace Sys2Proof.Machine

/-! ### What every step keeps -/

/-- No transaction stands behind one of lower class (R90). -/
def QueueOrdered (q : List Transaction) : Prop := q.Pairwise (fun a b => a.cls.below b.cls = false)

/-- The transaction queue is ordered by class and holds at most 64 (R90). -/
def QueueFits (p : Blocks) : Prop := QueueOrdered p.bus.queue ∧ p.bus.queue.length ≤ 64

/-- Classes strictly increase from bottom to top; the list stands top first (R24). -/
def StackIncreases (es : List StackEntry) : Prop := es.Pairwise (fun a b => b.cls.below a.cls = true)

/-- Every owner stack's classes strictly increase (R24). -/
def StacksIncrease (p : Blocks) : Prop := ∀ es ∈ p.map.owners.toList, StackIncreases es

/-- Every stored show lists a channel at most once (R2). -/
def ShowsDistinct (st : Settings) : Prop := ∀ sh, some sh ∈ st.shows.toList → sh.channels.Nodup

/-- The settings in working memory, in both image areas and in a save's capture have shows of distinct channels (R2, R15). -/
def StoreDistinct (c : CueStore) : Prop :=
  ShowsDistinct c.settings ∧ (∀ im, c.areaA = some im → ShowsDistinct im.settings) ∧
    (∀ im, c.areaB = some im → ShowsDistinct im.settings) ∧ (∀ j, c.save = some j → ShowsDistinct j.image.settings)

/-- The area that the note names holds an image, and no save is writing it (R15, R16). -/
def NoteHolds (c : CueStore) : Prop :=
  ∀ ar, c.note = some ar → imageIn c ar ≠ none ∧ ∀ j, c.save = some j → j.area ≠ ar

/-- No save executes while the settings load (R16, R18). -/
def LoadsAlone (c : CueStore) : Prop := c.loading = true → c.save = none

/-- The notice queue holds at most 32 (R178). -/
def NoticesFit (p : Blocks) : Prop := p.link.notices.length ≤ 32

/-- Whether a save is writing, as a number. -/
def saving (p : Blocks) : Nat := if p.store.save.isSome then 1 else 0

/-- The request queue holds at most 4, and the replies made with those still to come for the requests waiting and executing are at most 13 (R175, R176). -/
def LinkFits (p : Blocks) : Prop :=
  p.link.requests.length ≤ 4 ∧ p.link.replies.length + p.link.requests.length + saving p ≤ 13

/-- A source whose pending flag is set has an idle rearm timer (R118). -/
def PendingIsArmed (p : Blocks) : Prop := ∀ w ∈ p.trigger.sources.toList, w.pending = true → w.rearm = none

/-- Under alarm no pending flag is set (R124). -/
def AlarmClearsPending (p : Blocks) : Prop := underAlarm p = true → ∀ w ∈ p.trigger.sources.toList, w.pending = false

/-- Consecutive failures count to 3 at most (R101). -/
def FailuresFit (p : Blocks) : Prop := ∀ r ∈ p.bus.nodes.toList, r.failures ≤ 3

/-! ### What the statements assume -/

/-- A request that arrives is taken at that event: the load has ended, no save writes, nothing waits in the request queue, and the reply list holds fewer than 8 (R174 to R176). -/
structure Ready (p : Blocks) : Prop where
  loaded : p.store.loading = false
  free : p.store.save = none
  empty : p.link.requests = []
  room : p.link.replies.length < 8

/-- An immediate request is taken at its arrival, and no other request at that event: the load has ended, the reply list holds fewer than 8, and nothing waits or a save writes (R174 to R176). -/
structure Prompt (p : Blocks) : Prop where
  loaded : p.store.loading = false
  room : p.link.replies.length < 8
  still : p.link.requests = [] ∨ p.store.save ≠ none

/-- Nothing waits for the transmitter or in the request queue, as after every event in which nothing was refused for room (R175, R177). -/
structure Settled (p : Blocks) : Prop where
  empty : p.link.requests = []
  sent : p.link.transmitting = none → p.link.replies = [] ∧ p.link.notices = []

/-- The checks of R45 let a start of show `sh` with an origin pass: a rest timer bars the origins TRIGGER, SCHEDULE, SET and AUTOSTART alone (R69). -/
structure StartPasses (p : Blocks) (id : Nat) (origin : Origin) (sh : ShowRecord) : Prop where
  range : id ≤ 63
  stored : showOf p id = some sh
  cls : sh.cls ≠ .override ∨ origin = .alarm
  quiet : p.house.alarmState = .normal ∨ origin = .alarm
  cues : sh.cues ≠ []
  rested : (∀ n, origin ≠ .trigger n ∧ origin ≠ .schedule n ∧ origin ≠ .showSet n) ∧ origin ≠ .autostart ∨
    (tget p.runner.rest id : Option Timer) = none

/-- A start finds no slot that holds its show, and slot `k` is the lowest FREE one (R46). -/
structure Takes (p : Blocks) (id k : Nat) : Prop where
  idle : slotHolding p id = none
  range : k < 16
  free : slotOf p k = none
  lowest : ∀ j < k, slotOf p j ≠ none

/-- The fields of a slot that a start has taken (R43). -/
def takenAs (id : Nat) (sh : ShowRecord) (origin : Origin) : SlotRec :=
  { state := .pending, showId := id, cls := sh.cls, origin := origin, step := 0, pointer := 0, clock := 0
    repeats := if sh.plays = 0 then none else some (sh.plays - 1), deadline := none, primeTimer := none
    heldWhenSuspended := false, waitEntry := none, late := false, missing := [], skipped := 0, group := none, began := false }

/-- A slot whose show begins again (R48): RUNNING at cue 0 with the origin of the start that asks for it, the last states of its entries absent, SHOW-STARTED with the late flag clear, and the cues at offset 0 fired. -/
def begunAgain (k : Nat) (origin : Origin) (r : SlotRec) (sh : ShowRecord) (p : Blocks) : Blocks :=
  fireDue k (putNotice (.showStarted k r.showId origin r.missing false) (clearLast k (setSlot k (some
    { r with
      state := .running, origin := origin, clock := 0, pointer := 0
      repeats := if sh.plays = 0 then none else some (sh.plays - 1)
      deadline := none, late := false, began := true }) p)))

/-! ### Frames: what commands leave as it was -/

/-- Everything but the channel map, the runner, the queue, the transaction on the bus, the notices and the lost flag. -/
structure SlotsFrame (p q : Blocks) : Prop where
  store : q.store = p.store
  trigger : q.trigger = p.trigger
  level : q.level = p.level
  time : q.time = p.time
  house : q.house = p.house
  nodes : q.bus.nodes = p.bus.nodes
  pollTicks : q.bus.pollTicks = p.bus.pollTicks
  assembler : q.link.assembler = p.link.assembler
  requests : q.link.requests = p.link.requests
  replies : q.link.replies = p.link.replies
  transmitting : q.link.transmitting = p.link.transmitting
  overrun : q.link.overrun = p.link.overrun
  freeCount : q.link.freeCount = p.link.freeCount

/-- The store, the takers with a tick in hand, the assembler, the frame being sent and the overrun flag; and of the link's queues, that requests turn into replies alone (R148, R165, R175). -/
structure EventFrame (p q : Blocks) : Prop where
  store : q.store = p.store
  inHand : q.time.inHand = p.time.inHand
  assembler : q.link.assembler = p.link.assembler
  transmitting : q.link.transmitting = p.link.transmitting
  overrun : q.link.overrun = p.link.overrun
  freeCount : q.link.freeCount = p.link.freeCount
  total : q.link.replies.length + q.link.requests.length = p.link.replies.length + p.link.requests.length
  fewer : q.link.requests.length ≤ p.link.requests.length
  none : p.link.requests = [] → q.link.requests = [] ∧ q.link.replies = p.link.replies

/-- A slot's record but for its count of lost cues (R71). -/
def SlotRec.lossless (r : SlotRec) : SlotRec := { r with skipped := 0 }

/-- Offering transactions leaves every slot as it was but for its count of lost cues, and the channel map, the rest timers, the launch groups and what is foreseen (R71, R90 to R93). -/
structure OfferFrame (p q : Blocks) : Prop where
  others : SlotsFrame p q
  map : q.map = p.map
  restTimers : q.runner.rest = p.runner.rest
  groups : q.runner.groups = p.runner.groups
  foresight : q.runner.foresight = p.runner.foresight
  slots : ∀ k, (slotOf q k).map SlotRec.lossless = (slotOf p k).map SlotRec.lossless

/-! ### Outcomes -/

/-- The next state: the part is `p`, and the queue of commands is untouched. -/
def becomes (s : State) (p : Blocks) : Host.Outcome State Fault Refusal := .next { s with part := p }

/-- The next state of a request answered OK at its arrival: `p` with the reply made, then one look of the transmitter (R175 to R177). -/
def repliesOk (s : State) (tag kind : Byte) (body : OkBody) (p : Blocks) : Host.Outcome State Fault Refusal :=
  becomes s (transmit (putReply (.ok tag kind body) p))

/-- The next state of a request refused at its arrival: nothing but the reply, then one look of the transmitter (R175 to R177). -/
def repliesRefused (s : State) (tag kind : Byte) (why : Reason) : Host.Outcome State Fault Refusal :=
  becomes s (transmit (putReply (.refused tag kind why) s.part))

/-- The tag and the request of a command that is the arrival of a request (log entry 1). -/
def arrivalOf : Instr → Option (Byte × Request)
  | .defineShow tag r => some (tag, .defineShow r)
  | .appendCues tag r => some (tag, .appendCues r)
  | .eraseShow tag id => some (tag, .eraseShow id)
  | .readShowHeader tag id => some (tag, .readShowHeader id)
  | .readShowPage tag id index => some (tag, .readShowPage id index)
  | .saveStore tag => some (tag, .saveStore)
  | .setChannel tag r => some (tag, .setChannel r)
  | .getChannel tag ch => some (tag, .getChannel ch)
  | .stopGallery tag g => some (tag, .stopGallery g)
  | .start tag id option => some (tag, .startShow id option)
  | .stop tag id => some (tag, .stopShow id)
  | .release tag id => some (tag, .release id)
  | .getSlot tag k => some (tag, .getSlot k)
  | .setBus tag timeout retries => some (tag, .setBus timeout retries)
  | .getNodes tag => some (tag, .getNodes)
  | .setLine tag r => some (tag, .setLine r)
  | .setRoute tag r => some (tag, .setRoute r)
  | .clearPending tag chosen => some (tag, .clearPending chosen)
  | .defineSet tag r => some (tag, .defineSet r)
  | .startSet tag n => some (tag, .startSet n)
  | .getTriggers tag table n => some (tag, .getTriggers table n)
  | .clearLevelFlags tag chosen => some (tag, .clearLevelFlags chosen)
  | .getLevels tag g => some (tag, .getLevels g)
  | .setGallery tag r => some (tag, .setGallery r)
  | .setLaw tag r => some (tag, .setLaw r)
  | .setLawRemoval tag ch => some (tag, .removeLaw ch)
  | .getLaw tag ch => some (tag, .getLaw ch)
  | .setTimebase tag source rate => some (tag, .setTimebase source rate)
  | .setTime tag second weekday => some (tag, .setTime second weekday)
  | .getTime tag => some (tag, .getTime)
  | .setEntry tag r => some (tag, .setEntry r)
  | .getEntry tag e => some (tag, .getEntry e)
  | .closeHouse tag w => some (tag, .closeHouse w)
  | .openHouse tag => some (tag, .openHouse)
  | .alarmAck tag => some (tag, .alarmAck)
  | .resume tag => some (tag, .resume)
  | .setAlarm tag showId ackTime => some (tag, .setAlarm showId ackTime)
  | .getStatus tag => some (tag, .getStatus)
  | .stopAll tag => some (tag, .stopAll)
  | .reset tag => some (tag, .reset)
  | _ => none

/-! ### What several rules do, said once -/

/-- The transaction a cue asks for: its channel index and its kind (R57). -/
def CueAction.sends : CueAction → Option (Nat × TxKind)
  | .play i c v l => some (i, .play c v l false 0)
  | .scene i n f => some (i, .scene n f)
  | .level i v f => some (i, .level v f)
  | .pulse i d => some (i, .pulse d)
  | .stop i => some (i, .stop)
  | .hold _ => none
  | .mark _ => none

/-- One more lost cue, up to 65,535 (R71). -/
def moreSkipped (n : Nat) : Nat := if n < 65535 then n + 1 else 65535

/-- The shows whose autostart is set, in ascending order (R162). -/
def autostartIds (p : Blocks) : List Nat := (List.range 64).filter (fun id => (showOf p id).any (fun sh => sh.autostart))

/-- One autostart, carried to its end: a plain start with origin AUTOSTART; a refusal is reported unless it is ALREADY (R162). -/
def afterAutostart (q : Blocks) (id : Nat) : Blocks :=
  match startShow id .autostart false q with
  | (.accepted _ _, q') => q'
  | (.refused why step, q') => if why = .already then q' else putNotice (.startRefused .autostart (some id) why step) q'

/-- A source is taken: its flag is cleared and its rearm timer loaded, then its route's action is carried out to the end (R118, R119). -/
def afterTaking (i : Nat) (q : Blocks) : Blocks :=
  let rt : RouteSettings := tget q.store.settings.routes i
  routeAction i rt { q with
    trigger := { q.trigger with
      sources := tset q.trigger.sources i
        { pending := false
          rearm := if rt.rearm = 0 then none else some { ticks := rt.rearm * 100, fresh := true }
          direction := (tget q.trigger.sources i).direction } } }

/-- At an opening, each source in ascending order that is pending with its route enabled is taken (R119). -/
def afterWaiting (q : Blocks) (i : Nat) : Blocks :=
  if (tget q.trigger.sources i).pending = true ∧ (tget q.store.settings.routes i).enabled = true then afterTaking i q else q

/-- An opening: the mode, its notice, the autostarts, and then the waiting sources (R162). -/
def afterOpening (cause : OpenCause) (p : Blocks) : Blocks :=
  let p1 := putNotice (.houseOpen cause) { p with house := { p.house with mode := .opened } }
  (List.range 64).foldl afterWaiting ((autostartIds p1).foldl afterAutostart p1)

/-- The slots that a closing ends (R161). -/
def closes (r : SlotRec) (sh : ShowRecord) : Prop :=
  r.state = .pending ∨ r.cls = .feature ∨ r.cls = .notice ∨ r.cls = .ambient ∧ sh.keepClosed = false

/-- A line's working record written. -/
def withLine (l : Nat) (w : LineWork) (p : Blocks) : Blocks := { p with trigger := { p.trigger with lines := tset p.trigger.lines l w } }

/-- A source's working record written. -/
def withSource (i : Nat) (w : SourceWork) (p : Blocks) : Blocks := { p with trigger := { p.trigger with sources := tset p.trigger.sources i w } }

/-- A gallery's working record written. -/
def withGallery (g : Nat) (w : GalleryWork) (p : Blocks) : Blocks := { p with level := { p.level with galleries := tset p.level.galleries g w } }

/-- A law's working record written. -/
def withLaw (ch : Nat) (w : LawWork) (p : Blocks) : Blocks := { p with level := { p.level with laws := tset p.level.laws ch w } }

/-- A slot's next state at the release of its hold, with the cues then due and the length check (R60). -/
def afterHold (k : Nat) (r : SlotRec) (p : Blocks) : Blocks :=
  lengthCheck k (fireDue k (setSlot k (some { r with state := .running, pointer := r.pointer + 1, deadline := none, began := true }) p))

/-- A PRIMING slot settled by its timer (R51, R80). -/
def afterPriming (k : Nat) (r : SlotRec) (sh : ShowRecord) (p : Blocks) : Blocks :=
  let p0 := setSlot k (some { r with primeTimer := none }) p
  match sh.primeMode with
  | .lenient =>
    match r.group with
    | none => goSlot k p0
    | some leader => considerGroup leader (setSlot k (some { r with step := 2, primeTimer := none }) p)
  | .strict =>
    if r.group = some k then endSlots ((k, .notReady) :: (followersLed p0 k).map (fun f => (f, EndReason.leader))) p0
    else endSlots [(k, .notReady)] p0

/-- A line's TRIGGER notice, where it reports (R114). -/
def afterReport (st : LineSettings) (n : Notice) (p : Blocks) : Blocks := if st.report = true then putNotice n p else p

/-- A set's start of a show, its refusal reported with origin SET where `report` says so (R121, R126, R156). -/
def afterSetStart (report : Bool) (n id : Nat) (p : Blocks) : Blocks :=
  match startShow id (.showSet n) false p with
  | (.accepted _ _, q) => q
  | (.refused why step, q) => if report = true then putNotice (.startRefused (.showSet n) (some id) why step) q else q

/-- A route's refusal, where the source reports it (R121). -/
def afterRefusal (rt : RouteSettings) (n : Notice) (p : Blocks) : Blocks := if rt.report = true then putNotice n p else p

/-- A lost cue is reported: CUE-LOST and one more skipped, where its slot is not FREE (R93, R97, R98, R99). -/
def afterLoss (t : Transaction) (cause : LostCause) (p : Blocks) : Blocks :=
  match t.origin, t.cueIndex with
  | some k, some ci =>
    match slotOf p k with
    | none => p
    | some r =>
      setSlot k (some { r with skipped := moreSkipped r.skipped }) (putNotice (.cueLost k r.showId ci (t.channel.getD 0) cause) p)
  | _, _ => p

/-! ### Requests that carry given settings, and when a request's own rule accepts them -/

/-- The position of a name in its list (R183). -/
def codeOf {α : Type} [BEq α] (names : List α) (x : α) : Nat := names.idxOf x

/-- An optional field as carried (R183). -/
def asField : Option Nat → OptField
  | none => .absent
  | some v => .present v

/-- DEFINE-SHOW of a header (R6). -/
def ShowHeader.request (id : Nat) (h : ShowHeader) : DefineShowReq :=
  { id := id, label := h.label, cls := codeOf [.ambient, .feature, .notice, .override] h.cls, channels := h.channels,
    length := h.length, plays := h.plays, preempt := codeOf [.resume, .restart, .yield] h.preempt,
    conflict := codeOf [.wait, .refuse] h.conflict, primeMode := codeOf [.strict, .lenient] h.primeMode,
    primeTimeout := h.primeTimeout, rest := h.rest, leader := asField h.leader, tied := h.tied.toNat,
    autostart := h.autostart.toNat, keepClosed := h.keepClosed.toNat }

/-- The ranges of R2, the combinations of R6 and the leader rules of R7. -/
structure HeaderAccepted (p : Blocks) (id : Nat) (h : ShowHeader) : Prop where
  label : h.label.length ≤ 12 ∧ ∀ b ∈ h.label, 32 ≤ b ∧ b ≤ 126
  channels : 1 ≤ h.channels.length ∧ h.channels.length ≤ 24 ∧ h.channels.Nodup ∧ ∀ ch ∈ h.channels, channelEntry p ch ≠ none
  length : 1 ≤ h.length ∧ h.length ≤ 720000
  plays : h.plays ≤ 255
  primeTimeout : 1 ≤ h.primeTimeout ∧ h.primeTimeout ≤ 100
  rest : h.rest ≤ 3600
  ambientOnly : h.autostart = true ∨ h.keepClosed = true → h.cls = .ambient
  tiedLeader : h.tied = true → h.leader ≠ none
  leader : ∀ l, h.leader = some l → l ≤ 63 ∧ l ≠ id ∧ h.cls ≠ .override ∧ (∀ f sh, showOf p f = some sh → sh.leader ≠ some id) ∧
    ∀ sh, showOf p l = some sh → sh.leader = none ∧ sh.cls ≠ .override
  led : h.cls = .override → ∀ f sh, showOf p f = some sh → sh.leader ≠ some id

/-- A cue record as carried (R8, R183); a HOLD or MARK carries any channel index, `spare`. -/
def Cue.raw (spare : Nat) (c : Cue) : RawCue :=
  match c.action with
  | .play i clip lvl loop => { offset := c.offset, action := 0, index := i, word := clip, byte7 := lvl, byte8 := loop.toNat }
  | .scene i scene fade => { offset := c.offset, action := 1, index := i, word := scene, byte7 := fade / 256, byte8 := fade % 256 }
  | .level i lvl fade => { offset := c.offset, action := 2, index := i, word := fade, byte7 := lvl, byte8 := spare }
  | .pulse i duration => { offset := c.offset, action := 3, index := i, word := duration, byte7 := spare, byte8 := spare }
  | .stop i => { offset := c.offset, action := 4, index := i, word := spare, byte7 := spare, byte8 := spare }
  | .hold timeout => { offset := c.offset, action := 5, index := spare, word := timeout, byte7 := spare, byte8 := spare }
  | .mark number => { offset := c.offset, action := 6, index := spare, word := spare, byte7 := number, byte8 := spare }

/-- The kind of the channel at an index of a show's channel list is one of the kinds (R3). -/
def indexSuits (p : Blocks) (sh : ShowRecord) (i : Nat) (kinds : List ChannelKind) : Prop :=
  ∃ ch e, sh.channels[i]? = some ch ∧ channelEntry p ch = some e ∧ e.kind ∈ kinds

/-- The ranges and kinds of R3, and the length of R9, for one cue. -/
def cueAccepted (p : Blocks) (sh : ShowRecord) (c : Cue) : Prop :=
  c.offset ≤ sh.length ∧
    match c.action with
    | .play i clip lvl _ => 1 ≤ clip ∧ clip ≤ 65535 ∧ lvl ≤ 100 ∧ indexSuits p sh i [.video, .audio]
    | .scene i scene fade => 1 ≤ scene ∧ scene ≤ 999 ∧ fade ≤ 6000 ∧ indexSuits p sh i [.light]
    | .level i lvl fade => lvl ≤ 100 ∧ fade ≤ 6000 ∧ indexSuits p sh i [.audio, .light]
    | .pulse i duration => 1 ≤ duration ∧ duration ≤ 6000 ∧ indexSuits p sh i [.effect]
    | .stop i => indexSuits p sh i [.video, .audio, .light, .effect]
    | .hold timeout => timeout ≤ 3600
    | .mark number => number ≤ 255

/-- SET-CHANNEL of an entry, mapped or not (R22); `spare` is what an unmapping leaves in the fields it does not carry. -/
def channelRequest (ch : Nat) (spare : MappingReq) : Option ChannelEntry → SetChannelReq
  | none => { channel := ch, mapped := 0, mapping := spare }
  | some e =>
    { channel := ch, mapped := 1
      mapping := { gallery := e.gallery, kind := codeOf [.video, .audio, .light, .effect] e.kind, node := e.node, nodeChannel := e.nodeChannel } }

/-- The ranges of R21. -/
def entryInRange : Option ChannelEntry → Prop
  | none => True
  | some e => e.gallery ≤ 15 ∧ 1 ≤ e.node ∧ e.node ≤ 32 ∧ e.nodeChannel ≤ 7

/-- SET-LINE of settings (R115). -/
def LineSettings.request (line : Nat) (st : LineSettings) : SetLineReq :=
  { line := line, enabled := st.enabled.toNat, activeLevel := codeOf [.high, .low] st.activeLevel,
    edge := codeOf [.rising, .falling, .both] st.edge, stableCount := st.stableCount, repeatDelay := st.repeatDelay,
    repeatInterval := st.repeatInterval, report := st.report.toNat, wake := st.wake.toNat }

/-- The ranges of R110 and the rules of R115. -/
structure LineAccepted (st : LineSettings) : Prop where
  stableCount : 1 ≤ st.stableCount ∧ st.stableCount ≤ 64
  delay : st.repeatDelay = 0 ∨ 100 ≤ st.repeatDelay ∧ st.repeatDelay ≤ 5000 ∧ st.repeatDelay % 5 = 0
  interval : st.repeatInterval = 0 ∨ 50 ≤ st.repeatInterval ∧ st.repeatInterval ≤ 2000 ∧ st.repeatInterval % 5 = 0
  both : st.repeatDelay = 0 ↔ st.repeatInterval = 0

/-- SET-ROUTE of settings (R122). -/
def RouteSettings.request (source : Nat) (rt : RouteSettings) : SetRouteReq :=
  { source := source, enabled := rt.enabled.toNat
    action := codeOf [.start, .startRestart, .startSet, .stop, .release, .note] rt.action, target := asField rt.target,
    rearm := rt.rearm, report := rt.report.toNat }

/-- The ranges of R116 and R122. -/
def routeAccepted (rt : RouteSettings) : Prop :=
  rt.rearm ≤ 600 ∧
    match rt.action with
    | .startSet => ∃ n, rt.target = some n ∧ n ≤ 15
    | .note => rt.target = none
    | _ => ∃ id, rt.target = some id ∧ id ≤ 63

/-- SET-LAW of settings (R144). -/
def LawSettings.request (ch : Nat) (law : LawSettings) : SetLawReq :=
  { channel := ch, gallery := law.gallery, curve := law.curve.map (fun q => (q.level, q.gain)), interpolate := law.interpolate.toNat,
    upRate := law.upRate, downRate := law.downRate, jumpHigh := law.jumpHigh.toNat, jumpLow := law.jumpLow.toNat,
    hysteresis := law.hysteresis }

/-- The ranges of R138. -/
structure LawAccepted (law : LawSettings) : Prop where
  gallery : law.gallery ≤ 15
  points : law.curve.length = 5
  ranges : ∀ q ∈ law.curve, q.level ≤ 1023 ∧ q.gain ≤ 100
  rising : law.curve.Pairwise (fun a b => a.level < b.level)
  rates : 1 ≤ law.upRate ∧ law.upRate ≤ 100 ∧ 1 ≤ law.downRate ∧ law.downRate ≤ 100
  hysteresis : law.hysteresis ≤ 200

/-- SET-ENTRY of a schedule entry (R157). -/
def ScheduleEntry.request (e : Nat) (en : ScheduleEntry) : SetEntryReq :=
  { entry := e, enabled := en.enabled.toNat, mask := en.mask, second := en.second
    action := codeOf [.start, .startSet, .stop, .openHouse, .closeHouse] en.action, target := asField en.target
    wake := match en.wake with
      | none => .absent
      | some w => .present { schedule := w.schedule.toNat, trigger := w.trigger.toNat } }

/-- The ranges of R154 and R157. -/
def entryAccepted (en : ScheduleEntry) : Prop :=
  en.second ≤ 86399 ∧
    match en.action with
    | .start => (∃ id, en.target = some id ∧ id ≤ 63) ∧ en.wake = none
    | .stop => (∃ id, en.target = some id ∧ id ≤ 63) ∧ en.wake = none
    | .startSet => (∃ n, en.target = some n ∧ n ≤ 15) ∧ en.wake = none
    | .openHouse => en.target = none ∧ en.wake = none
    | .closeHouse => en.target = none ∧ en.wake ≠ none

end Sys2Proof.Machine
end

