-- ==== Sys2Proof/Certificates/Slice0/Obligations.lean ====
section
/-! DEFINITION. The statements for the provers. `becomes`, `repliesOk` and `repliesRefused` (Safety.lean) each say that a command answers a next state, and which. -/

section

open Sys2Proof Sys2Proof.Machine

/-! ### Steps, power and load -/

/-- A step takes the command at the front of the queue and runs it on the rest. -/
def Obligations.StepRunsTheFrontCommand : Prop :=
  ∀ (c : Instr) (rest : List Instr) (s : State), step { s with pending := c :: rest } = exec c { s with pending := rest }

/-- With no command waiting the part idles: a choice of the model (log entry 3). -/
def Obligations.AnEmptyQueueIdles : Prop := ∀ s : State, s.pending = [] → step s = .next s

/-- Every command answers a next state and leaves the queue of commands as it was: the part refuses by a reply (R176), counts and notices what is lost (R71, R93), and never stops. -/
def Obligations.EveryCommandGoesOn : Prop := ∀ (c : Instr) (s : State), ∃ p, exec c s = becomes s p

/-- What a settings load begins with (R42, R74, R86, R109, R130, R146, R159, R172, R182), for every content of non-volatile memory; State.reset is such a part with both areas blank and nothing waiting (log entry 2); the settings while the load runs are the model's choice (log entry 23). POWER-UP begins a load with non-volatile memory kept; the end of a pulse of the reset line does the same and keeps the day clock, its valid flag and the running of the ticks, a tick that the day clock has still to take among them (R18, R19, R148, R159; log entry 5); that RESET_LINE_PULSE stands for the whole pulse is the model's choice (log entry 38). A save in progress is gone: its area, written blank when it began, is one of those kept. -/
def Obligations.PowerAndResetLineBeginALoad : Prop :=
  ((∀ (a b : Option Image) (note : Option Area) (n : Nat), ∃ p, Blocks.loadBegins a b note n = p ∧
    p.store = { settings := Settings.initial, areaA := a, areaB := b, note := note, save := none, loading := true } ∧
    (∀ ch < 128, ownersOf p ch = []) ∧ p.map.waitOrder = [] ∧ p.map.waitCounter = 0 ∧
    (∀ k < 16, slotOf p k = none) ∧ (∀ id < 64, (tget p.runner.rest id : Option Timer) = none) ∧ p.runner.groups = [] ∧ p.runner.foresight = .idle ∧
    p.bus.queue = [] ∧ p.bus.job = none ∧
    (∀ m, 1 ≤ m → m ≤ 32 → nodeRecord p m = { presence := .present, failures := 0, toggle := false, lastNak := none }) ∧
    (∀ l < 32, tget p.trigger.lines l = { qualified := none, stable := 0, countdown := none }) ∧
    (∀ i < 64, (tget p.trigger.sources i).pending = false ∧ (tget p.trigger.sources i).rearm = none) ∧
    (∀ i < 16, (tget p.trigger.pointers i : Nat) = 0) ∧
    (∀ g < 16, tget p.level.galleries g =
      { sample := none, previous := none, highFlag := false, lowFlag := false, stuckFlag := false, equalRun := 0, runReported := false, minimum := 1023, maximum := 0 }) ∧
    (∀ ch < 128, (tget p.level.laws ch).current = none ∧ (tget p.level.laws ch).target = none ∧ (tget p.level.laws ch).lastSent = none) ∧
    p.time.goodCount = 0 ∧ p.time.lastPulse = none ∧ p.time.second = 0 ∧ p.time.weekday = 0 ∧ p.time.fraction = 0 ∧ p.time.valid = false ∧ p.time.inHand = [] ∧
    p.house.mode = .closed ∧ p.house.wake = { schedule := true, trigger := false } ∧ p.house.alarmState = .normal ∧
    p.house.acknowledged = false ∧ p.house.escalation = none ∧ p.house.alert = false ∧ p.house.qualified = none ∧ p.house.run = 0 ∧
    p.link.assembler = .hunting ∧ p.link.requests = [] ∧ p.link.replies = [] ∧ p.link.notices = [] ∧ p.link.transmitting = none ∧
    p.link.lost = false ∧ p.link.overrun = false) ∧
  State.reset = { part := Blocks.loadBegins none none none 0, pending := [] }) ∧
  (∀ s : State,
    exec .powerUp s = becomes s (Blocks.loadBegins s.part.store.areaA s.part.store.areaB s.part.store.note s.part.link.freeCount) ∧
    exec .resetLinePulse s = becomes s
      { Blocks.loadBegins s.part.store.areaA s.part.store.areaB s.part.store.note s.part.link.freeCount with
        time := { TimeUnit.initial with
          lastTick := s.part.time.lastTick, inHand := s.part.time.inHand.filter (fun t => t = TickTaker.dayClock), second := s.part.time.second, weekday := s.part.time.weekday,
          fraction := s.part.time.fraction, valid := s.part.time.valid } })

/-- The end of a load (R15, R18, R109, R159): the newer valid image is loaded and noted, or the values with no image; the timebase takes its state from the source, with no good pulse, no reference and no grid (log entry 6); STORE-LOADED or STORE-EMPTY is put; then a POLL for each referenced node, in ascending order, is offered, and on a bus as a load begins with, free and with nothing queued, the first goes to the bus and the others stand in the queue; nothing else changes. Then requests that waited through the load are taken, the oldest first, as the statement of their waiting says (R18, R175); one that waited alone is taken as if it had arrived just then; and with nothing to reply an idle transmitter takes the store's notice. -/
def Obligations.ALoadEndsWithTheNewerImage : Prop :=
  ∀ s : State, s.part.store.loading = true →
    ∃ (im : Option Image) (st : Settings) (note : Option Area) (n : Notice) (polls : List Transaction) (p q : Blocks),
      (s.part.store.areaA = none → s.part.store.areaB = none → im = none ∧ note = none) ∧
      (∀ i, (s.part.store.areaA = some i ∧ s.part.store.areaB = none ∨
          ∃ old, s.part.store.areaA = some i ∧ s.part.store.areaB = some old ∧ i.generation < 65536 ∧ old.generation < 65536 ∧
            (i.generation = (old.generation + 1) % 65536 ∨ old.generation ≠ (i.generation + 1) % 65536 ∧ old.generation ≤ i.generation)) →
        im = some i ∧ note = some .a) ∧
      (∀ i, (s.part.store.areaA = none ∧ s.part.store.areaB = some i ∨
          ∃ old, s.part.store.areaB = some i ∧ s.part.store.areaA = some old ∧ i.generation < 65536 ∧ old.generation < 65536 ∧
            (old.generation ≠ (i.generation + 1) % 65536 ∧ (i.generation = (old.generation + 1) % 65536 ∨ old.generation < i.generation))) →
        im = some i ∧ note = some .b) ∧
      (im = none → st = Settings.initial ∧ n = .storeEmpty) ∧
      (∀ i, im = some i → st = i.settings ∧ n = .storeLoaded i.generation (showsDefined i.settings) (cuesUsed i.settings)) ∧
      p = putNotice n { s.part with
        store := { s.part.store with settings := st, note := note, loading := false }
        time := { s.part.time with
          state := if st.source = .internal then .internal else .syncLost
          goodCount := 0, lastPulse := none, grid := none } } ∧
      polls = ((List.range 33).filter (fun m => 1 ≤ m ∧ nodeReferenced st m)).map pollTx ∧
      q = polls.foldl (fun b t => offer t b) p ∧
      (s.part.bus.job = none → s.part.bus.queue = [] →
        (polls = [] → q = p) ∧
        (∀ t ts, polls = t :: ts → q = { p with bus := { p.bus with
          queue := ts
          job := some { tx := { t with toggle := some (nodeRecord s.part t.node).toggle, attempts := 1 },
                        timeout := st.replyTimeout, retries := st.retryCount } } })) ∧
      exec .settingsLoadEnd s = becomes s (finish q) ∧
      (s.part.link.requests = [] → exec .settingsLoadEnd s = becomes s (transmit q)) ∧
      (∀ c tag r alone, arrivalOf c = some (tag, r) →
        s.part.link.requests = [{ tag := tag, kind := kindOfRequest r, content := .request r }] →
        s.part.store.save = none → s.part.link.replies.length < 8 →
        alone = { s with part := { q with link := { q.link with requests := [] } } } →
        exec .settingsLoadEnd s = exec c alone) ∧
      (s.part.link.replies = [] → s.part.link.notices = [] → s.part.link.transmitting = none → s.part.link.requests = [] →
        ∃ tag, (transmit q).link.transmitting = some (.notice n s.part.link.lost tag))

/-! ### The host link -/

/-- How an arriving request that is not taken at once is handled (R18, R174, R175, R176): while the settings load it joins the request queue, whatever it asks; while a save executes, a request that is not immediate waits; with four waiting it is answered BUSY; with 8 replies waiting it is discarded and the overrun flag set. And when what waits is taken: at the end of any event, the oldest first and then the next, once the load has ended, nothing executes and fewer than 8 replies wait, or a reply sent at that event makes it so; a waiting request is then taken as one that arrives is, and a frame that is none is refused. That a SET-LAW whose form byte is none of its two waits and is answered BAD-FIELD when it is taken is the model's choice (log entry 12). Requests that may not be taken stay. An event with no request waiting ends at once. -/
def Obligations.ARequestWaitsOrIsTurnedAway : Prop :=
  (∀ (c : Instr) (tag : Byte) (r : Request) (s : State), arrivalOf c = some (tag, r) →
    (s.part.link.requests = [] → 8 ≤ s.part.link.replies.length →
      exec c s = becomes s (transmit { s.part with link := { s.part.link with overrun := true } })) ∧
    (s.part.link.replies.length < 8 →
      (s.part.store.loading = true ∨ s.part.store.save ≠ none ∧ r ≠ .getStatus ∧ r ≠ .stopAll ∧ r ≠ .alarmAck ∧ r ≠ .reset) →
      (s.part.link.requests.length < 4 →
        exec c s = becomes s (transmit { s.part with link := { s.part.link with
          requests := s.part.link.requests ++ [{ tag := tag, kind := kindOfRequest r, content := .request r }] } })) ∧
      (4 ≤ s.part.link.requests.length → exec c s = repliesRefused s tag (kindOfRequest r) .busy))) ∧
  (∀ (p : Blocks) (x : Queued) (rest : List Queued), p.link.requests = x :: rest →
    (p.store.loading = false → p.store.save = none → p.link.replies.length < 8 →
      finish p = finish (takeQueued x { p with link := { p.link with requests := rest } })) ∧
    (p.store.loading = false → p.store.save = none → 8 ≤ p.link.replies.length → p.link.transmitting = none → finish p = finish (transmit p)) ∧
    (p.store.loading = true ∨ p.store.save ≠ none ∨ 8 ≤ p.link.replies.length ∧ p.link.transmitting ≠ none →
      finish p = transmit p)) ∧
  (∀ p : Blocks, p.link.requests = [] → finish p = transmit p) ∧
  (∀ (p : Blocks) (x : Queued),
    (x.content = .unknownKind → takeQueued x p = putReply (.refused x.tag x.kind .unknownKind) p) ∧
    (x.content = .badLength → takeQueued x p = putReply (.refused x.tag x.kind .badLength) p) ∧
    (x.content = .badForm → takeQueued x p = putReply (.refused x.tag x.kind .badField) p)) ∧
  (∀ (c : Instr) (tag : Byte) (r : Request) (s : State), arrivalOf c = some (tag, r) → Ready s.part →
    exec c s = becomes s (finish (takeQueued { tag := tag, kind := kindOfRequest r, content := .request r } s.part)))

/-- The receive assembler (R173), whatever waits: hunting for the start byte, the length byte, the body, the check value, and the gap; a frame rejected while 8 replies or more wait is discarded with the overrun flag (R176). FRAME_GAP while hunting has no effect (log entry 22). A complete frame arrives (R174): with 8 replies waiting it is discarded; while the settings load it joins the request queue, or is BUSY, whatever it holds; else one of an unknown kind or a wrong length is answered at once, an immediate request is taken at once, and any other joins the queue or is BUSY, from which, with nothing in the way, the same event takes it. A frame of a request arrives as that request's row does (log entry 1). That a form byte in SET-LAW that is none of its two waits, and is answered BAD-FIELD when taken, is the model's choice (log entry 12). -/
def Obligations.TheAssemblerTakesBytes : Prop :=
  (∀ (s : State) (b : Byte),
    (s.part.link.assembler = .hunting → b ≠ 0xA5 → exec (.receiveByte b) s = becomes s (finish s.part)) ∧
    (s.part.link.assembler = .hunting →
      exec (.receiveByte 0xA5) s = becomes s (finish { s.part with link := { s.part.link with assembler := .length } })) ∧
    (s.part.link.assembler = .length → 2 ≤ b.toNat → b.toNat ≤ 252 →
      exec (.receiveByte b) s = becomes s (finish { s.part with link := { s.part.link with assembler := .body b.toNat [] } })) ∧
    (s.part.link.assembler = .length → (b.toNat < 2 ∨ 252 < b.toNat) → s.part.link.replies.length < 8 →
      exec (.receiveByte b) s = becomes s (finish { s.part with link := { s.part.link with
        assembler := .hunting, replies := s.part.link.replies ++ [.frameReject .length] } })) ∧
    (s.part.link.assembler = .length → (b.toNat < 2 ∨ 252 < b.toNat) → 8 ≤ s.part.link.replies.length →
      exec (.receiveByte b) s = becomes s (finish { s.part with link := { s.part.link with assembler := .hunting, overrun := true } })) ∧
    (∀ len got, s.part.link.assembler = .body len got → got.length + 1 < len + 2 →
      exec (.receiveByte b) s = becomes s (finish { s.part with link := { s.part.link with assembler := .body len (got ++ [b]) } })) ∧
    (∀ got tag kind body, s.part.link.assembler = .body (body.length + 2) got →
      got ++ [b] = tag :: kind :: body ++ crcBytes (BitVec.ofNat 8 (body.length + 2) :: tag :: kind :: body) →
      ∃ q, q = { s.part with link := { s.part.link with assembler := .hunting } } ∧
        exec (.receiveByte b) s = becomes s (finish (arrive { tag := tag, kind := kind, content := readRequest kind body } q)) ∧
        (∀ c r, readRequest kind body = .request r → arrivalOf c = some (tag, r) → exec (.receiveByte b) s = exec c { s with part := q }) ∧
        (readRequest kind body = .unknownKind → s.part.store.loading = false → s.part.link.replies.length < 8 →
          exec (.receiveByte b) s = becomes s (finish (putReply (.refused tag kind .unknownKind) q))) ∧
        (readRequest kind body = .badLength → s.part.store.loading = false → s.part.link.replies.length < 8 →
          exec (.receiveByte b) s = becomes s (finish (putReply (.refused tag kind .badLength) q))) ∧
        (readRequest kind body = .badForm → Ready s.part →
          exec (.receiveByte b) s = becomes s (transmit (putReply (.refused tag kind .badField) q)))) ∧
    (∀ got tag kind body check, s.part.link.assembler = .body (body.length + 2) got → check.length = 2 →
      got ++ [b] = tag :: kind :: body ++ check → check ≠ crcBytes (BitVec.ofNat 8 (body.length + 2) :: tag :: kind :: body) →
      (s.part.link.replies.length < 8 → exec (.receiveByte b) s = becomes s (finish { s.part with link := { s.part.link with
        assembler := .hunting, replies := s.part.link.replies ++ [.frameReject .check] } })) ∧
      (8 ≤ s.part.link.replies.length → exec (.receiveByte b) s = becomes s (finish { s.part with link := { s.part.link with
        assembler := .hunting, overrun := true } }))) ∧
    (s.part.link.assembler = .hunting → exec .frameGap s = becomes s (finish s.part)) ∧
    (s.part.link.assembler ≠ .hunting → s.part.link.replies.length < 8 →
      exec .frameGap s = becomes s (finish { s.part with link := { s.part.link with
        assembler := .hunting, replies := s.part.link.replies ++ [.frameReject .gap] } })) ∧
    (s.part.link.assembler ≠ .hunting → 8 ≤ s.part.link.replies.length →
      exec .frameGap s = becomes s (finish { s.part with link := { s.part.link with assembler := .hunting, overrun := true } }))) ∧
  (∀ (x : Queued) (p joined : Blocks),
    (p.link.requests.length < 4 → joined = { p with link := { p.link with requests := p.link.requests ++ [x] } }) →
    (4 ≤ p.link.requests.length → joined = putReply (.refused x.tag x.kind .busy) p) →
    (8 ≤ p.link.replies.length → arrive x p = { p with link := { p.link with overrun := true } }) ∧
    (p.link.replies.length < 8 → p.store.loading = true → arrive x p = joined) ∧
    (p.link.replies.length < 8 → p.store.loading = false →
      (x.content = .unknownKind → arrive x p = putReply (.refused x.tag x.kind .unknownKind) p) ∧
      (x.content = .badLength → arrive x p = putReply (.refused x.tag x.kind .badLength) p) ∧
      (x.content = .badForm → arrive x p = joined) ∧
      (∀ r, x.content = .request r →
        (r = .getStatus ∨ r = .stopAll ∨ r = .alarmAck ∨ r = .reset → arrive x p = takeQueued x p) ∧
        (r ≠ .getStatus → r ≠ .stopAll → r ≠ .alarmAck → r ≠ .reset → arrive x p = joined)))) ∧
  (∀ (c : Instr) (tag : Byte) (r : Request) (s : State), arrivalOf c = some (tag, r) →
    exec c s = becomes s (finish (arrive { tag := tag, kind := kindOfRequest r, content := .request r } s.part)))

/-- At the end of a frame the transmitter takes the oldest reply, else the oldest notice, else is idle (R177); so too where it was idle, a choice of the model (log entry 22). A frame it has begun is sent whole: no command but TRANSMIT_FRAME_END, POWER_UP and RESET_LINE_PULSE ends it. The tag byte of a notice is a free value (log entry 9). Whatever waits, the frame's end is an event like any other, at whose end requests that may be taken are taken (R175): so where 8 replies have held them back, the transmitter takes the oldest reply, and then the oldest request is taken. The transmitter's next frame is given where no request waits, or none may be taken while the settings load or a save writes. -/
def Obligations.RepliesGoBeforeNotices : Prop :=
  (∀ s : State,
    exec .transmitFrameEnd s = becomes s (finish { s.part with link := { s.part.link with transmitting := none } }) ∧
    (∀ r rs x rest, s.part.store.loading = false → s.part.store.save = none → s.part.link.requests = x :: rest →
      s.part.link.replies = r :: rs → rs.length = 7 →
      exec .transmitFrameEnd s = becomes s (finish (takeQueued x
        { s.part with link := { s.part.link with transmitting := some (.reply r), replies := rs, requests := rest } })))) ∧
  (∀ s : State, s.part.link.requests = [] ∨ s.part.store.loading = true ∨ s.part.store.save ≠ none →
    (∀ r rs, s.part.link.replies = r :: rs → exec .transmitFrameEnd s = becomes s
      { s.part with link := { s.part.link with transmitting := some (.reply r), replies := rs } }) ∧
    (∀ n ns, s.part.link.replies = [] → s.part.link.notices = n :: ns → exec .transmitFrameEnd s = becomes s
      { s.part with link := { s.part.link with
        transmitting := some (.notice n s.part.link.lost (Config.noticeTag s.part.link.freeCount)), notices := ns, lost := false,
        freeCount := s.part.link.freeCount + 1 } }) ∧
    (s.part.link.replies = [] → s.part.link.notices = [] → exec .transmitFrameEnd s = becomes s
      { s.part with link := { s.part.link with transmitting := none } })) ∧
  (∀ (p : Blocks) (f : TxFrame), p.link.transmitting = some f → transmit p = p) ∧
  (∀ (c : Instr) (s t : State) (f : TxFrame), c ≠ .transmitFrameEnd → c ≠ .powerUp → c ≠ .resetLinePulse →
    s.part.link.transmitting = some f → exec c s = .next t → t.part.link.transmitting = some f)

/-- The notice queue (R178): 32 at most, what is dropped sets the lost flag, the next notice sent carries it and clears it, GET-STATUS leaves it, power-up and the reset line empty the queue and clear the flag, and RESET empties it, puts RESET-DONE first, and leaves a frame being sent alone. -/
def Obligations.TheNoticeQueueHolds32 : Prop :=
  (∀ n p, p.link.notices.length < 32 → putNotice n p = { p with link := { p.link with notices := p.link.notices ++ [n] } }) ∧
  (∀ n p, 32 ≤ p.link.notices.length → putNotice n p = { p with link := { p.link with lost := true } }) ∧
  (∀ p n ns, p.link.transmitting = none → p.link.replies = [] → p.link.notices = n :: ns →
    ∃ tag, (transmit p).link.transmitting = some (.notice n p.link.lost tag) ∧ (transmit p).link.lost = false ∧
      (transmit p).link.notices = ns) ∧
  (∀ s tag t, Ready s.part → exec (.getStatus tag) s = .next t → t.part.link.lost = s.part.link.lost) ∧
  (∀ s t, exec .powerUp s = .next t ∨ exec .resetLinePulse s = .next t → t.part.link.notices = [] ∧ t.part.link.lost = false) ∧
  (∀ s tag t f, Ready s.part → s.part.link.transmitting = some f → exec (.reset tag) s = .next t →
    t.part.link.transmitting = some f ∧ t.part.link.lost = false ∧ t.part.link.notices = [.resetDone])

/-! ### The cue store -/

/-- DEFINE-SHOW (R2, R6, R7): accepted, it writes the header into the show's place and empties its cue list, and nothing else changes; and when it is refused, nothing changing: an id above 63, an active show whatever the other fields hold, and each header that R2, R6 or R7 rules out. A yes or no above 1, and a leader byte that is no presence byte, are refused with BAD-FIELD as well (log entry 12). -/
def Obligations.DefineShowWritesTheHeader : Prop :=
  (∀ (s : State) (tag : Byte) (id : Nat) (h : ShowHeader), Ready s.part → id ≤ 63 → showActive s.part id = false →
    HeaderAccepted s.part id h →
    ∃ st, st = { s.part.store.settings with shows := tset s.part.store.settings.shows id (some { toShowHeader := h, cues := [] }) } ∧
      exec (.defineShow tag (h.request id)) s =
        repliesOk s tag 1 (.showDefined id (cueCountOf (showOf s.part id)) (cuesUsed st)) (setSettings st s.part)) ∧
  (∀ (s : State) (tag : Byte) (r : DefineShowReq) (id : Nat) (h : ShowHeader), Ready s.part →
    (63 < r.id → exec (.defineShow tag r) s = repliesRefused s tag 1 .badField) ∧
    (r.id ≤ 63 → showActive s.part r.id = false →
      (3 < r.cls ∨ 2 < r.preempt ∨ 1 < r.conflict ∨ 1 < r.primeMode ∨ 1 < r.tied ∨ 1 < r.autostart ∨ 1 < r.keepClosed ∨ r.leader = .malformed) →
      exec (.defineShow tag r) s = repliesRefused s tag 1 .badField) ∧
    (r.id ≤ 63 → showActive s.part r.id = true → exec (.defineShow tag r) s = repliesRefused s tag 1 .showActive) ∧
    (id ≤ 63 → showActive s.part id = false → ¬ HeaderAccepted s.part id h →
      exec (.defineShow tag (h.request id)) s = repliesRefused s tag 1 .badField))

/-- APPEND-CUES (R3, R8, R9): accepted, it adds the cues to the end of the show's list in the order carried, HOLD and MARK without a channel index, and nothing else changes; and when it is refused, in the order of R8, nothing changing; a PLAY whose loop byte is above 1 is refused with BAD-FIELD as well (log entry 12). -/
def Obligations.AppendCuesAddsInOrder : Prop :=
  (∀ (s : State) (tag : Byte) (id spare : Nat) (sh : ShowRecord) (cs : List Cue), Ready s.part → id ≤ 63 →
    showOf s.part id = some sh → showActive s.part id = false → 1 ≤ cs.length → cs.length ≤ 12 →
    (∀ c ∈ cs, cueAccepted s.part sh c) → (lastOffset sh :: cs.map (fun c => c.offset)).Pairwise (· ≤ ·) →
    cuesUsed s.part.store.settings + cs.length ≤ 4096 → sh.cues.length + cs.length ≤ 512 →
    ∃ st, st = { s.part.store.settings with shows := tset s.part.store.settings.shows id (some { sh with cues := sh.cues ++ cs }) } ∧
      exec (.appendCues tag { id := id, cues := cs.map (Cue.raw spare) }) s =
        repliesOk s tag 2 (.cuesAppended id sh.cues.length (sh.cues.length + cs.length) (cuesUsed st)) (setSettings st s.part)) ∧
  (∀ (s : State) (tag : Byte) (id spare : Nat) (raw : List RawCue) (cs : List Cue), Ready s.part →
    (63 < id → exec (.appendCues tag { id := id, cues := raw }) s = repliesRefused s tag 2 .badField) ∧
    (id ≤ 63 → showOf s.part id = none → exec (.appendCues tag { id := id, cues := raw }) s = repliesRefused s tag 2 .noShow) ∧
    (∀ sh, id ≤ 63 → showOf s.part id = some sh →
      (showActive s.part id = true → exec (.appendCues tag { id := id, cues := raw }) s = repliesRefused s tag 2 .showActive) ∧
      (showActive s.part id = false →
        (raw.length < 1 ∨ 12 < raw.length → exec (.appendCues tag { id := id, cues := raw }) s = repliesRefused s tag 2 .badField) ∧
        ((∃ c ∈ raw, 6 < c.action ∨ c.action = 0 ∧ 1 < c.byte8) → exec (.appendCues tag { id := id, cues := raw }) s = repliesRefused s tag 2 .badField) ∧
        (1 ≤ cs.length → cs.length ≤ 12 →
          ((∃ c ∈ cs, ¬ cueAccepted s.part sh c) ∨ ¬ (lastOffset sh :: cs.map (fun c => c.offset)).Pairwise (· ≤ ·) →
            exec (.appendCues tag { id := id, cues := cs.map (Cue.raw spare) }) s = repliesRefused s tag 2 .badField) ∧
          ((∀ c ∈ cs, cueAccepted s.part sh c) → (lastOffset sh :: cs.map (fun c => c.offset)).Pairwise (· ≤ ·) →
            (4096 < cuesUsed s.part.store.settings + cs.length ∨ 512 < sh.cues.length + cs.length) →
            exec (.appendCues tag { id := id, cues := cs.map (Cue.raw spare) }) s = repliesRefused s tag 2 .storeFull)))))

/-- ERASE-SHOW (R10): the refusals in order, and the place made undefined with nothing else changed, the show's rest timer and every reference to the id included. -/
def Obligations.EraseShowEmptiesThePlace : Prop :=
  ∀ (s : State) (tag : Byte) (id : Nat), Ready s.part →
    (63 < id → exec (.eraseShow tag id) s = repliesRefused s tag 3 .badField) ∧
    (id ≤ 63 → showOf s.part id = none → exec (.eraseShow tag id) s = repliesRefused s tag 3 .noShow) ∧
    (∀ sh, id ≤ 63 → showOf s.part id = some sh →
      (showActive s.part id = true → exec (.eraseShow tag id) s = repliesRefused s tag 3 .showActive) ∧
      (showActive s.part id = false →
        ∃ st, st = { s.part.store.settings with shows := tset s.part.store.settings.shows id none } ∧
          cuesUsed st + sh.cues.length = cuesUsed s.part.store.settings ∧
          exec (.eraseShow tag id) s = repliesOk s tag 3 (.showErased id sh.cues.length (cuesUsed st)) (setSettings st s.part)))

/-- READ-SHOW in both forms (R11, R12), whether or not the show is active; it changes nothing. -/
def Obligations.ReadShowReturnsWhatIsStored : Prop :=
  ∀ (s : State) (tag : Byte) (id index : Nat), Ready s.part →
    (63 < id → exec (.readShowHeader tag id) s = repliesRefused s tag 4 .badField ∧
      exec (.readShowPage tag id index) s = repliesRefused s tag 4 .badField) ∧
    (id ≤ 63 → showOf s.part id = none → exec (.readShowHeader tag id) s = repliesRefused s tag 4 .noShow ∧
      exec (.readShowPage tag id index) s = repliesRefused s tag 4 .noShow) ∧
    (∀ sh, id ≤ 63 → showOf s.part id = some sh →
      exec (.readShowHeader tag id) s = repliesOk s tag 4 (.header id sh.toShowHeader sh.cues.length) s.part ∧
      (sh.cues.length < index → exec (.readShowPage tag id index) s = repliesRefused s tag 4 .badField) ∧
      (index ≤ sh.cues.length → exec (.readShowPage tag id index) s =
        repliesOk s tag 4 (.page id index sh.cues.length ((sh.cues.drop index).take 12)) s.part))

/-- SAVE-STORE (R15, R16): the settings are captured and the area the note does not name is written, with no reply yet, in every house mode and alarm state; at the end of the write the area holds the image and the note names it, or the area holds none and the note stays; the reply and STORE-SAVED carry the outcome and the generation, and requests that waited are then taken (R175). That the area is blank from the moment the save begins, and that the outcome of the read-back is the command's operand, are the model's choice (log entry 24). -/
def Obligations.ASaveWritesTheOtherArea : Prop :=
  (∀ (s : State) (tag : Byte), Ready s.part →
    (s.part.store.note = none → exec (.saveStore tag) s = becomes s (transmit { s.part with store := { s.part.store with
      areaA := none, save := some { tag := tag, area := .a, image := { generation := 1, settings := s.part.store.settings } } } })) ∧
    (∀ im, s.part.store.note = some .a → s.part.store.areaA = some im →
      exec (.saveStore tag) s = becomes s (transmit { s.part with store := { s.part.store with
        areaB := none, save := some { tag := tag, area := .b, image :=
          { generation := (im.generation + 1) % 65536, settings := s.part.store.settings } } } })) ∧
    (∀ im, s.part.store.note = some .b → s.part.store.areaB = some im →
      exec (.saveStore tag) s = becomes s (transmit { s.part with store := { s.part.store with
        areaA := none, save := some { tag := tag, area := .a, image :=
          { generation := (im.generation + 1) % 65536, settings := s.part.store.settings } } } }))) ∧
  (∀ (s : State) (j : SaveJob), s.part.store.save = some j → ∃ saved lost,
    saved = putNotice (.storeSaved true j.image.generation)
      (putReply (.ok j.tag 5 (.saved true j.image.generation)) { s.part with store := { s.part.store with
        areaA := if j.area = .a then some j.image else s.part.store.areaA
        areaB := if j.area = .b then some j.image else s.part.store.areaB
        note := some j.area, save := none } }) ∧
    lost = putNotice (.storeSaved false j.image.generation)
      (putReply (.ok j.tag 5 (.saved false j.image.generation)) { s.part with store := { s.part.store with
        areaA := if j.area = .a then none else s.part.store.areaA
        areaB := if j.area = .b then none else s.part.store.areaB
        save := none } }) ∧
    exec (.saveWriteEnd true) s = becomes s (finish saved) ∧ exec (.saveWriteEnd false) s = becomes s (finish lost) ∧
    (s.part.link.requests = [] →
      exec (.saveWriteEnd true) s = becomes s (transmit saved) ∧ exec (.saveWriteEnd false) s = becomes s (transmit lost)))

/-! ### The channel map -/

/-- SET-CHANNEL (R21, R22, R138): the refusals in order, and the entry written; a mapped flag above 1 is refused with BAD-FIELD as well (log entry 12); a law goes when its channel is unmapped or becomes EFFECT, and its last sent gain is forgotten when the channel moves to another node or node channel. -/
def Obligations.SetChannelWritesTheEntry : Prop :=
  ∀ (s : State) (tag : Byte) (ch : Nat) (spare : MappingReq) (new : Option ChannelEntry) (r : SetChannelReq), Ready s.part →
    (127 < r.channel ∨ 1 < r.mapped ∨ r.mapped = 1 ∧ 3 < r.mapping.kind → exec (.setChannel tag r) s = repliesRefused s tag 6 .badField) ∧
    (127 < ch ∨ ¬ entryInRange new → exec (.setChannel tag (channelRequest ch spare new)) s = repliesRefused s tag 6 .badField) ∧
    (ch ≤ 127 → entryInRange new →
      ((∃ e c o, new = some e ∧ c ≠ ch ∧ channelEntry s.part c = some o ∧ o.node = e.node ∧ o.nodeChannel = e.nodeChannel) →
        exec (.setChannel tag (channelRequest ch spare new)) s = repliesRefused s tag 6 .badField) ∧
      (¬ (∃ e c o, new = some e ∧ c ≠ ch ∧ channelEntry s.part c = some o ∧ o.node = e.node ∧ o.nodeChannel = e.nodeChannel) →
        (unmapsOrRekinds (channelEntry s.part ch) new = true → channelListed s.part.store.settings ch = true →
          exec (.setChannel tag (channelRequest ch spare new)) s = repliesRefused s tag 6 .channelReferenced) ∧
        (unmapsOrRekinds (channelEntry s.part ch) new = false ∨ channelListed s.part.store.settings ch = false →
          (movesNode (channelEntry s.part ch) new = true → ownersOf s.part ch ≠ [] →
            exec (.setChannel tag (channelRequest ch spare new)) s = repliesRefused s tag 6 .showActive) ∧
          (movesNode (channelEntry s.part ch) new = false ∨ ownersOf s.part ch = [] →
            exec (.setChannel tag (channelRequest ch spare new)) s = repliesOk s tag 6 (.channelSet ch new)
              (if new = none ∨ (∃ e, new = some e ∧ e.kind = .effect) then
                { s.part with
                  store := { s.part.store with settings := { s.part.store.settings with
                    channels := tset s.part.store.settings.channels ch new, laws := tset s.part.store.settings.laws ch none } }
                  level := { s.part.level with laws := tset s.part.level.laws ch LawWork.initial } }
              else if movesNode (channelEntry s.part ch) new = true then
                { s.part with
                  store := { s.part.store with settings := { s.part.store.settings with channels := tset s.part.store.settings.channels ch new } }
                  level := { s.part.level with laws := tset s.part.level.laws ch { tget s.part.level.laws ch with lastSent := none } } }
              else setSettings { s.part.store.settings with channels := tset s.part.store.settings.channels ch new } s.part)))))

/-- The readers change nothing but that their reply is made: GET-CHANNEL (R23), GET-SLOT (R72), GET-NODES (R108), GET-TRIGGERS (R128), GET-LAW (R144), GET-ENTRY (R157). The model's own: the seconds left of a timer are rounded up (R72 says so of a part second; log entry 27), the frozen bit of a law is the one last written (log entry 20), and a table number above 2 is refused with BAD-FIELD (log entries 11 and 12). -/
def Obligations.ReadersChangeNothing : Prop :=
  ∀ (s : State) (tag : Byte) (n : Nat), Ready s.part →
    (127 < n → exec (.getChannel tag n) s = repliesRefused s tag 7 .badField ∧ exec (.getLaw tag n) s = repliesRefused s tag 25 .badField) ∧
    (n ≤ 127 →
      exec (.getChannel tag n) s = repliesOk s tag 7 (.channel n (channelEntry s.part n) (ownersOf s.part n).reverse) s.part ∧
      (lawOn s.part n = none → exec (.getLaw tag n) s = repliesOk s tag 25 (.law n none) s.part) ∧
      (∀ law, lawOn s.part n = some law →
        exec (.getLaw tag n) s = repliesOk s tag 25 (.law n (some { settings := law, work := tget s.part.level.laws n })) s.part)) ∧
    (15 < n → exec (.getSlot tag n) s = repliesRefused s tag 12 .badField) ∧
    (n ≤ 15 →
      (slotOf s.part n = none → exec (.getSlot tag n) s = repliesOk s tag 12 (.freeSlot n) s.part) ∧
      (∀ r, slotOf s.part n = some r → exec (.getSlot tag n) s = repliesOk s tag 12
        (.slot n r (r.deadline.map (fun t => (t + 99) / 100))
          ((tget s.part.runner.rest r.showId : Option Timer).map (fun t => (t.ticks + 99) / 100))) s.part)) ∧
    exec (.getNodes tag) s = repliesOk s tag 14
      (.nodes ((List.range 32).map (fun m => { record := nodeRecord s.part (m + 1), referenced := nodeReferenced s.part.store.settings (m + 1) }))
        s.part.bus.queue.length s.part.bus.job.isSome) s.part ∧
    (∀ table, 2 < table → exec (.getTriggers tag table n) s = repliesRefused s tag 20 .badField) ∧
    (31 < n → exec (.getTriggers tag 0 n) s = repliesRefused s tag 20 .badField) ∧
    (n ≤ 31 → exec (.getTriggers tag 0 n) s = repliesOk s tag 20 (.lines n (((List.range 32).filter (fun i => n ≤ i && i < n + 8)).map
      (fun i => { settings := tget s.part.store.settings.lines i, qualified := (tget s.part.trigger.lines i).qualified }))) s.part) ∧
    (63 < n → exec (.getTriggers tag 1 n) s = repliesRefused s tag 20 .badField) ∧
    (n ≤ 63 → exec (.getTriggers tag 1 n) s = repliesOk s tag 20 (.sources n (((List.range 64).filter (fun i => n ≤ i && i < n + 8)).map
      (fun i => { settings := tget s.part.store.settings.routes i, pending := (tget s.part.trigger.sources i).pending,
                  rearm := (tget s.part.trigger.sources i).rearm.map (fun t => (t.ticks + 99) / 100) }))) s.part) ∧
    (15 < n → exec (.getTriggers tag 2 n) s = repliesRefused s tag 20 .badField) ∧
    (n ≤ 15 → exec (.getTriggers tag 2 n) s = repliesOk s tag 20 (.sets n (((List.range 16).filter (fun i => n ≤ i && i < n + 8)).map
      (fun i => (tget s.part.store.settings.sets i : Option SetSettings).map
        (fun st => { settings := st, pointer := tget s.part.trigger.pointers i })))) s.part) ∧
    (95 < n → exec (.getEntry tag n) s = repliesRefused s tag 30 .badField) ∧
    (n ≤ 95 → exec (.getEntry tag n) s = repliesOk s tag 30 (.entry n (tget s.part.store.settings.entries n)) s.part)

/-! ### Starts, stops and releases -/

/-- When a start is refused (R45, R48, R69): each check in its order, for every origin that R45 names and for START; nothing changes. RESTING reaches the starts with origin TRIGGER, SCHEDULE, SET and AUTOSTART alone. An option of START above 1 is refused with BAD-FIELD before the checks (log entry 12). -/
def Obligations.StartIsRefusedInOrder : Prop :=
  (∀ (p : Blocks) (id : Nat) (origin : Origin) (restart : Bool),
    (63 < id → startShow id origin restart p = (.refused .badField .check, p)) ∧
    (id ≤ 63 → showOf p id = none → startShow id origin restart p = (.refused .noShow .check, p)) ∧
    (∀ sh, id ≤ 63 → showOf p id = some sh →
      (sh.cls = .override → origin ≠ .alarm → startShow id origin restart p = (.refused .badClass .check, p)) ∧
      (sh.cls ≠ .override ∨ origin = .alarm →
        (p.house.alarmState ≠ .normal → origin ≠ .alarm → startShow id origin restart p = (.refused .alarm .check, p)) ∧
        (p.house.alarmState = .normal ∨ origin = .alarm →
          (sh.cues = [] → startShow id origin restart p = (.refused .emptyShow .check, p)) ∧
          (sh.cues ≠ [] →
            (∀ rests : Prop, (rests ↔ (∃ n, origin = .trigger n ∨ origin = .schedule n ∨ origin = .showSet n) ∨ origin = .autostart) →
              (rests → (tget p.runner.rest id : Option Timer) ≠ none → startShow id origin restart p = (.refused .resting .check, p)) ∧
              (¬ rests ∨ (tget p.runner.rest id : Option Timer) = none →
                (∀ k r, slotHolding p id = some k → slotOf p k = some r →
                  restart = false ∨ (origin ≠ .link ∧ ∀ n, origin ≠ .trigger n) ∨ r.state ≠ .running ∧ r.state ≠ .held →
                  startShow id origin restart p = (.refused .already .check, p)) ∧
                (slotHolding p id = none → (∀ k < 16, slotOf p k ≠ none) →
                  startShow id origin restart p = (.refused .slotFull .check, p))))))))) ∧
  (∀ (s : State) (tag : Byte) (id option : Nat), Ready s.part →
    (1 < option → exec (.start tag id option) s = repliesRefused s tag 9 .badField) ∧
    (option ≤ 1 → 63 < id → exec (.start tag id option) s = repliesRefused s tag 9 .badField) ∧
    (option ≤ 1 → id ≤ 63 → showOf s.part id = none → exec (.start tag id option) s = repliesRefused s tag 9 .noShow) ∧
    (∀ sh, option ≤ 1 → id ≤ 63 → showOf s.part id = some sh →
      (sh.cls = .override → exec (.start tag id option) s = repliesRefused s tag 9 .badClass) ∧
      (sh.cls ≠ .override → s.part.house.alarmState ≠ .normal → exec (.start tag id option) s = repliesRefused s tag 9 .alarm) ∧
      (sh.cls ≠ .override → s.part.house.alarmState = .normal → sh.cues = [] →
        exec (.start tag id option) s = repliesRefused s tag 9 .emptyShow) ∧
      (sh.cls ≠ .override → s.part.house.alarmState = .normal → sh.cues ≠ [] →
        (∀ k r, slotHolding s.part id = some k → slotOf s.part k = some r → (option = 0 ∨ r.state ≠ .running ∧ r.state ≠ .held) →
          exec (.start tag id option) s = repliesRefused s tag 9 .already) ∧
        (slotHolding s.part id = none → (∀ k < 16, slotOf s.part k ≠ none) →
          exec (.start tag id option) s = repliesRefused s tag 9 .slotFull))))

/-- A start whose claim fails (R28, R30, R31, R46), of whatever origin but LEADER, a follower's start being the statement of launch groups': under WAIT the lowest FREE slot becomes PENDING with the counter's number, and joins the wait order at its youngest end; under REFUSE nothing changes. No stack changes. START answers with what the start gives. -/
def Obligations.AFailedClaimWaitsOrIsRefused : Prop :=
  (∀ (p : Blocks) (id k : Nat) (origin : Origin) (restart : Bool) (sh : ShowRecord), (∀ j, origin ≠ .leader j) → StartPasses p id origin sh → Takes p id k →
    (∃ ch ∈ sh.channels, ∃ e, topEntry p ch = some e ∧ sh.cls.rank ≤ e.cls.rank) →
    (sh.conflict = .refuse → startShow id origin restart p = (.refused .channelBusy .claim, p)) ∧
    (sh.conflict = .wait → startShow id origin restart p = (.accepted k (.pending p.map.waitCounter),
      { p with
        map := { p.map with waitOrder := p.map.waitOrder ++ [k], waitCounter := (p.map.waitCounter + 1) % 65536 }
        runner := { p.runner with slots := tset p.runner.slots k (some { takenAs id sh origin with waitEntry := some p.map.waitCounter }) } }))) ∧
  (∀ (s : State) (tag : Byte) (id option k : Nat) (sh : ShowRecord), Ready s.part → option ≤ 1 → StartPasses s.part id .link sh → Takes s.part id k →
    (∃ ch ∈ sh.channels, ∃ e, topEntry s.part ch = some e ∧ sh.cls.rank ≤ e.cls.rank) →
    (sh.conflict = .refuse → exec (.start tag id option) s = repliesRefused s tag 9 .channelBusy) ∧
    (sh.conflict = .wait → exec (.start tag id option) s =
      repliesOk s tag 9 (.started k (.pending s.part.map.waitCounter)) (startShow id .link (decide (option = 1)) s.part).2))

/-- A start that finds its channels unowned (R28, R29, R46, R47, R49, R52), of whatever origin but ALARM, of a show that leads no other, with no launch group standing: it is CLAIMED; the lowest FREE slot holds the show with the start's origin; its entry stands alone on each channel of its list and no other slot's entry changes; it is PRIMING with its channels missing and its timer loaded, or, with none to wait for, has taken GO; every other slot, and every block but the bus queue and the notices, is as it was. And a start of whatever origin but LEADER whose channels others own in lower classes alone (R29, R46, R47, R63): it is CLAIMED too, and its endings are foreseen, as the statement of launch groups says (log entry 18); an entry is pushed on each channel; each slot whose top entry this covers, if PRIMING, RUNNING or HELD, is preempted once, in the order of the channel list, as the statement of preemption says; and the slots that yield, with those tied to them (log entry 19), leave in one removal, as the statement of removals says. What follows the grant is priming, where the claim still stands and no show is led; the statement of launch groups gives the rest, the start of a follower among it (R78), and the statement of the alarm line that of origin ALARM. START answers with what the start gives. -/
def Obligations.AClaimOfFreeChannelsIsGranted : Prop :=
  (∀ (p : Blocks) (id k : Nat) (origin : Origin) (restart : Bool) (sh : ShowRecord), origin ≠ .alarm → StartPasses p id origin sh → Takes p id k →
    (∀ ch ∈ sh.channels, ch < 128 ∧ ownersOf p ch = []) → sh.channels.Nodup →
    (∀ f sf, showOf p f = some sf → sf.leader ≠ some id) → p.runner.groups = [] →
    ∃ q r, startShow id origin restart p = (.accepted k .claimed, q) ∧
      slotOf q k = some r ∧ r.showId = id ∧ r.cls = sh.cls ∧ r.origin = origin ∧ r.late = false ∧ r.group = none ∧
      (primeList p sh = [] → r.step = 3 ∧ (r.state = .running ∨ r.state = .held) ∧ r.clock = 0 ∧ r.missing = []) ∧
      (primeList p sh ≠ [] → r.step = 1 ∧ r.state = .priming ∧ r.missing = (primeList p sh).map (fun c => c.1) ∧
        r.primeTimer = some (sh.primeTimeout * 10) ∧ r.pointer = 0 ∧ r.clock = 0) ∧
      (∀ ch ∈ sh.channels, ∃ uid, ownersOf q ch = [{ cls := sh.cls, slot := k, showId := id, last := none, uid := uid }]) ∧
      (∀ ch, ch ∉ sh.channels → (ownersOf q ch).filter (fun e => e.slot ≠ k) = (ownersOf p ch).filter (fun e => e.slot ≠ k)) ∧
      q.map.waitOrder = p.map.waitOrder ∧
      (∀ j, j ≠ k → (slotOf q j).map SlotRec.lossless = (slotOf p j).map SlotRec.lossless) ∧
      q.runner.rest = p.runner.rest ∧ SlotsFrame p q) ∧
  (∀ (p : Blocks) (id k : Nat) (origin : Origin) (restart : Bool) (sh : ShowRecord), (∀ j, origin ≠ .leader j) → StartPasses p id origin sh → Takes p id k →
    (∀ ch ∈ sh.channels, ∀ e, topEntry p ch = some e → e.cls.rank < sh.cls.rank) →
    startShow id origin restart p = (.accepted k .claimed,
      foresee (fun q => afterClaim pendingScan k id origin (grant pendingScan k q)) (setSlot k (some (takenAs id sh origin)) p))) ∧
  (∀ (s : State) (tag : Byte) (id option k : Nat) (sh : ShowRecord), Ready s.part → option ≤ 1 → StartPasses s.part id .link sh → Takes s.part id k →
    (∀ ch ∈ sh.channels, ∀ e, topEntry s.part ch = some e → e.cls.rank < sh.cls.rank) →
    exec (.start tag id option) s = repliesOk s tag 9 (.started k .claimed) (startShow id .link (decide (option = 1)) s.part).2) ∧
  (∀ (p : Blocks) (k : Nat) (r : SlotRec) (sh : ShowRecord), slotOf p k = some r → showOf p r.showId = some sh →
    sh.channels.Nodup → (∀ ch ∈ sh.channels, ch < 128) →
    ∃ covered yielders owners uid p1,
      covered = (sh.channels.filterMap (fun ch => (topEntry p ch).bind (fun e => (slotOf p e.slot).bind (fun c =>
        if c.state = .priming ∨ c.state = .running ∨ c.state = .held then some e.slot else none)))).eraseDups ∧
      yielders.Sublist covered ∧ (∀ c, c ∈ yielders ↔ c ∈ covered ∧ ∃ rc shc, slotOf p c = some rc ∧ showOf p rc.showId = some shc ∧ shc.preempt = .yield) ∧
      (∀ ch ∈ sh.channels, ∃ n, p.map.nextUid ≤ n ∧ n < uid ∧
        tget owners ch = { cls := r.cls, slot := k, showId := r.showId, last := none, uid := n } :: ownersOf p ch) ∧
      (∀ ch, ch ∉ sh.channels → (tget owners ch : List StackEntry) = ownersOf p ch) ∧
      p1 = setSlot k (some { r with
          state := .priming, step := 1, waitEntry := none, primeTimer := none, missing := (primeList p sh).map (fun c => c.1) })
        { p with map := { p.map with owners := owners, nextUid := uid } } ∧
      grant pendingScan k p = removal pendingScan (yielders ++ tiedTo p yielders)
        ((tiedTo p yielders).foldl (fun q c => endOne c .leader q) (covered.foldl (fun q c => preemptSlot k r.cls c q) p1))) ∧
  (∀ (p : Blocks) (k id : Nat) (origin : Origin), origin ≠ .alarm → (∀ f sf, showOf p f = some sf → sf.leader ≠ some id) →
    (claimStands p k = true → afterClaim pendingScan k id origin p = enterPriming k p) ∧
    (claimStands p k = false → afterClaim pendingScan k id origin p = p)) ∧
  (∀ (p : Blocks) (k : Nat), claimStands p k = true ↔ ∃ r, slotOf p k = some r ∧ r.state = .priming ∧ r.step = 1 ∧ r.primeTimer = none)

/-- A start with RESTART, of origin LINK or TRIGGER, of a show whose slot is RUNNING or HELD (R48): it is RESTARTED; the slot begins again at cue 0 with that origin, keeping its entries, class, lost cues, missing channels and group; the last states of its entries are absent; SHOW-STARTED goes with the late flag clear; then the cues at offset 0 fire. START answers with what the start gives. The beginning again is that of any slot and origin, the alarm's among them. -/
def Obligations.ARestartBeginsAgain : Prop :=
  (∀ (p : Blocks) (id k : Nat) (origin : Origin) (sh : ShowRecord) (r : SlotRec), (origin = .link ∨ ∃ n, origin = .trigger n) →
    StartPasses p id origin sh → slotHolding p id = some k → slotOf p k = some r → (r.state = .running ∨ r.state = .held) →
    startShow id origin true p = (.accepted k .restarted, begunAgain k origin r sh p)) ∧
  (∀ (p : Blocks) (k : Nat) (origin : Origin) (sh : ShowRecord) (r : SlotRec), slotOf p k = some r → showOf p r.showId = some sh →
    beginAgain k origin p = begunAgain k origin r sh p) ∧
  (∀ (s : State) (tag : Byte) (id k : Nat) (sh : ShowRecord) (r : SlotRec), Ready s.part → StartPasses s.part id .link sh →
    slotHolding s.part id = some k → slotOf s.part k = some r → (r.state = .running ∨ r.state = .held) →
    exec (.start tag id 1) s = repliesOk s tag 9 (.started k .restarted) (begunAgain k .link r sh s.part))

/-- STOP (R68, R32, R66, R69), in every house mode and alarm state: the refusals; a show that no slot holds; and the end of the slot that holds it, after which, with nothing waiting, the slot is FREE, has no entry on any stack, and the show rests; every other FREE slot stays FREE, and every block but the map, the runner, the bus queue and the notices is as it was. Slots that end at one event, of whatever reason (R66, R67, R83): each ends in the order given, and then, with reason LEADER, the slots tied to any of them, in ascending slot order (log entry 17); one removal takes the entries of all. A slot that ends while PRIMING, unless it yields, first offers a STOP for each channel that has answered READY; a slot's ending takes it out of the wait order and its group, puts SHOW-ENDED, makes it FREE, loads its show's rest timer, and is taken off the endings foreseen, or recorded where they are being foreseen (log entry 18). -/
def Obligations.StopEndsTheSlot : Prop :=
  (∀ (s : State) (tag : Byte) (id : Nat), Ready s.part →
    (63 < id → exec (.stop tag id) s = repliesRefused s tag 10 .badField) ∧
    (id ≤ 63 → showOf s.part id = none → exec (.stop tag id) s = repliesRefused s tag 10 .noShow) ∧
    (∀ sh, id ≤ 63 → showOf s.part id = some sh →
      (slotHolding s.part id = none → exec (.stop tag id) s = repliesOk s tag 10 (.stopped none) s.part) ∧
      (∀ k r, slotHolding s.part id = some k → slotOf s.part k = some r →
        ∃ q, q = endSlots [(k, .stopped)] s.part ∧ exec (.stop tag id) s = repliesOk s tag 10 (.stopped (some (k, r.state))) q ∧ SlotsFrame s.part q ∧
          (s.part.map.waitOrder = [] →
            slotOf q k = none ∧ (∀ ch e, e ∈ ownersOf q ch → e.slot ≠ k) ∧
            (tget q.runner.rest id : Option Timer) = (if sh.rest = 0 then none else some { ticks := sh.rest * 100, fresh := true }) ∧
            ∀ j, slotOf s.part j = none → slotOf q j = none)))) ∧
  (∀ (p : Blocks) (ends : List (Nat × EndReason)) (tied : List Nat), tied = tiedTo p (ends.map (fun e => e.1)) →
    endSlots ends p = foresee (endSlotsWith pendingScan ends) p ∧
    endSlotsWith pendingScan ends p = removal pendingScan (ends.map (fun e => e.1) ++ tied)
      ((ends ++ tied.map (fun j => (j, EndReason.leader))).foldl (fun q e => endOne e.1 e.2 q) p)) ∧
  (∀ (p : Blocks) (js : List Nat), (tiedTo p js).Pairwise (· < ·) ∧
    ∀ k, k ∈ tiedTo p js ↔ k ∉ js ∧ ∃ r sh, slotOf p k = some r ∧ showOf p r.showId = some sh ∧ sh.tied = true ∧
      ∃ j ∈ js, ∃ rj, slotOf p j = some rj ∧ r.origin = .leader j ∧ sh.leader = some rj.showId) ∧
  (∀ (p : Blocks) (k : Nat) (why : EndReason) (r : SlotRec) (sh : ShowRecord), slotOf p k = some r → showOf p r.showId = some sh →
    (r.state ≠ .priming ∨ why = .yielded → endOne k why p = finishSlot k why p) ∧
    (r.state = .priming → why ≠ .yielded → endOne k why p = finishSlot k why
      ((((primeList p sh).map (fun c => c.1)).filter (fun ch => ch ∉ r.missing)).foldl (fun q ch => offerChannel ch .stop r.cls none none none q) p)) ∧
    ∃ q, q = putNotice (.showEnded k r.showId r.origin why (if why = .yielded ∧ r.step = 2 then 1 else r.step) r.skipped)
        { p with map := { p.map with waitOrder := p.map.waitOrder.filter (fun j => j ≠ k) } } ∧
      finishSlot k why p = { q with runner := { q.runner with
        foresight := match q.runner.foresight with
          | .idle => .idle
          | .recording ks => .recording (ks ++ [k])
          | .known ks => .known (ks.erase k)
        slots := tset q.runner.slots k none
        rest := tset q.runner.rest r.showId (if sh.rest = 0 then none else some { ticks := sh.rest * 100, fresh := true })
        groups := q.runner.groups.map (fun g =>
          { g with leaderIn := g.leaderIn && decide (g.leader ≠ k), followers := g.followers.filter (fun f => f ≠ k) }) } })

/-- RELEASE (R60, R61), in every house mode and alarm state: the refusals; and the hold released, the deadline gone, the pointer past the HOLD, the slot RUNNING; then the due cues fire and the length is checked. The reply carries the cue index the slot has reached. -/
def Obligations.ReleaseEndsTheHold : Prop :=
  ∀ (s : State) (tag : Byte) (id : Nat), Ready s.part →
    (63 < id → exec (.release tag id) s = repliesRefused s tag 11 .badField) ∧
    (id ≤ 63 → showOf s.part id = none → exec (.release tag id) s = repliesRefused s tag 11 .noShow) ∧
    (id ≤ 63 → showOf s.part id ≠ none →
      (∀ k r, slotHolding s.part id = some k → slotOf s.part k = some r → r.state ≠ .held) →
      exec (.release tag id) s = repliesRefused s tag 11 .notHeld) ∧
    (∀ k r, id ≤ 63 → showOf s.part id ≠ none → slotHolding s.part id = some k → slotOf s.part k = some r → r.state = .held →
      ∃ q cue, q = lengthCheck k (fireDue k (setSlot k (some
            { r with state := .running, pointer := r.pointer + 1, deadline := none, began := true }) s.part)) ∧
        exec (.release tag id) s = repliesOk s tag 11 (.released k cue) q ∧
        ∀ r', slotOf q k = some r' → r'.showId = id → cue = r'.pointer)

/-- STOP-GALLERY (R41), in every house mode and alarm state: the refusal; and, at one event, the end of every slot whose show lists a channel of the gallery, with the count of the slots ended at it: those, their tied followers, and what ends in the scan that follows, each slot once (log entry 16). With no such slot and no launch group it changes nothing. -/
def Obligations.StopGalleryEndsItsSlots : Prop :=
  ∀ (s : State) (tag : Byte) (g : Nat), Ready s.part →
    (15 < g → exec (.stopGallery tag g) s = repliesRefused s tag 8 .badField) ∧
    (g ≤ 15 → ∃ ks, ks.Sublist (List.range 16) ∧
      (∀ k, k ∈ ks ↔ ∃ r sh ch e, slotOf s.part k = some r ∧ showOf s.part r.showId = some sh ∧ ch ∈ sh.channels ∧
        channelEntry s.part ch = some e ∧ e.gallery = g) ∧
      ∃ q ended, q = endSlots (ks.map (fun k => (k, EndReason.stopped))) s.part ∧ SlotsFrame s.part q ∧
        ended = (endingsOf (endSlotsWith pendingScan (ks.map (fun k => (k, EndReason.stopped)))) s.part).eraseDups ∧
        exec (.stopGallery tag g) s = repliesOk s tag 8 (.galleryStopped g ended.length) q ∧
        ended.Nodup ∧ (∀ k ∈ ended, k < 16) ∧ (∀ k ∈ ks ++ tiedTo s.part ks, k ∈ ended) ∧
        (s.part.map.waitOrder = [] → ended = ks ++ tiedTo s.part ks) ∧
        (ks = [] → s.part.runner.groups = [] → s.part.runner.foresight = .idle → ended = [] ∧ q = s.part))

/-! ### The bus settings -/

/-- SET-BUS (R107), in every house mode and alarm state: the refusal and the write; the values go with each transaction put on the bus from then on, and one already there keeps the values it started with through its attempts; the defaults are 4 ms and 1. -/
def Obligations.SetBusActsFromTheNextTransaction : Prop :=
  (∀ (s : State) (tag : Byte) (timeout retries : Nat), Ready s.part →
    (timeout < 1 ∨ 20 < timeout ∨ 2 < retries → exec (.setBus tag timeout retries) s = repliesRefused s tag 13 .badField) ∧
    (1 ≤ timeout → timeout ≤ 20 → retries ≤ 2 → exec (.setBus tag timeout retries) s = repliesOk s tag 13 (.bus timeout retries)
      (setSettings { s.part.store.settings with replyTimeout := timeout, retryCount := retries } s.part))) ∧
  (∀ (p : Blocks) (t : Transaction) (rest : List Transaction), p.store.loading = false → p.bus.job = none → p.bus.queue = t :: rest →
    ∃ j, (takeHead p).bus.job = some j ∧ j.timeout = p.store.settings.replyTimeout ∧ j.retries = p.store.settings.retryCount) ∧
  (∀ (s : State) (j : BusJob), s.part.bus.job = some j → j.tx.kind ≠ .hush → j.tx.attempts ≤ j.retries →
    exec .replyTimeout s = becomes s (finish { s.part with bus := { s.part.bus with
      job := some { tx := { j.tx with attempts := j.tx.attempts + 1 }, timeout := j.timeout, retries := j.retries } } })) ∧
  Settings.initial.replyTimeout = 4 ∧ Settings.initial.retryCount = 1

/-! ### The trigger unit's requests -/

/-- SET-LINE (R110, R115), in every house mode and alarm state: the refusals, of a yes or no above 1 among them (log entry 12); the settings written; and the working state by what changed. No trigger source changes. -/
def Obligations.SetLineWritesTheSettings : Prop :=
  ∀ (s : State) (tag : Byte) (l : Nat) (st : LineSettings) (r : SetLineReq), Ready s.part →
    (31 < r.line ∨ 1 < r.enabled ∨ 1 < r.activeLevel ∨ 2 < r.edge ∨ 1 < r.report ∨ 1 < r.wake → exec (.setLine tag r) s = repliesRefused s tag 15 .badField) ∧
    (l ≤ 31 → ¬ LineAccepted st → exec (.setLine tag (st.request l)) s = repliesRefused s tag 15 .badField) ∧
    (l ≤ 31 → LineAccepted st → ∃ w, exec (.setLine tag (st.request l)) s = repliesOk s tag 15 (.line l st)
        { s.part with
          store := { s.part.store with settings := { s.part.store.settings with lines := tset s.part.store.settings.lines l st } }
          trigger := { s.part.trigger with lines := tset s.part.trigger.lines l w } } ∧
      ∀ old, old = tget s.part.store.settings.lines l →
        (old.enabled ≠ st.enabled ∨ old.activeLevel ≠ st.activeLevel → w = { qualified := none, stable := 0, countdown := none }) ∧
        (old.enabled = st.enabled → old.activeLevel = st.activeLevel →
          (old.edge ≠ st.edge ∨ old.repeatDelay ≠ st.repeatDelay → w = { tget s.part.trigger.lines l with countdown := none }) ∧
          (old.edge = st.edge → old.repeatDelay = st.repeatDelay → w = tget s.part.trigger.lines l)))

/-- SET-ROUTE (R116, R118, R119, R122), in every house mode and alarm state: the refusals, among them those of a yes or no above 1 and of an action that needs a target and carries none (log entry 12); the settings written with the pending flag and the rearm timer kept; and, where the route is now enabled, the flag set, the house OPEN and the alarm NORMAL, the source taken after the write: flag cleared, timer loaded, action carried out. A target carried with NOTE is disregarded. -/
def Obligations.SetRouteWritesAndMayTake : Prop :=
  ∀ (s : State) (tag : Byte) (i : Nat) (rt : RouteSettings) (r : SetRouteReq), Ready s.part →
    (63 < r.source ∨ 1 < r.enabled ∨ 5 < r.action ∨ 600 < r.rearm ∨ 1 < r.report → exec (.setRoute tag r) s = repliesRefused s tag 16 .badField) ∧
    (i ≤ 63 → (rt.action = .note → 600 < rt.rearm) → ¬ routeAccepted rt →
      exec (.setRoute tag (rt.request i)) s = repliesRefused s tag 16 .badField) ∧
    (∀ n, i ≤ 63 → rt.action = .note → routeAccepted rt →
      exec (.setRoute tag { rt.request i with target := .present n }) s = exec (.setRoute tag (rt.request i)) s) ∧
    (i ≤ 63 → routeAccepted rt → ∃ q, q = setSettings { s.part.store.settings with routes := tset s.part.store.settings.routes i rt } s.part ∧
      (rt.enabled = false ∨ (tget s.part.trigger.sources i).pending = false ∨ s.part.house.mode = .closed ∨ s.part.house.alarmState ≠ .normal →
        exec (.setRoute tag (rt.request i)) s = repliesOk s tag 16 (.route i rt false) q) ∧
      (rt.enabled = true → (tget s.part.trigger.sources i).pending = true → s.part.house.mode = .opened → s.part.house.alarmState = .normal →
        exec (.setRoute tag (rt.request i)) s = repliesOk s tag 16 (.route i rt true) (afterTaking i q)))

/-- CLEAR-PENDING (R123), in every house mode and alarm state, whatever it chooses: the chosen flags are cleared, no action is taken, the rearm timers stay; the reply counts the chosen flags that were set. -/
def Obligations.ClearPendingClearsTheChosen : Prop :=
  ∀ (s : State) (tag : Byte) (chosen : BitVec 64), Ready s.part →
    ∃ src, exec (.clearPending tag chosen) s = repliesOk s tag 17
        (.pendingCleared ((List.range 64).filter (fun i => chosen.getLsbD i && (tget s.part.trigger.sources i).pending)).length)
        { s.part with trigger := { s.part.trigger with sources := src } } ∧
      ∀ i < 64, tget src i = { tget s.part.trigger.sources i with
        pending := (tget s.part.trigger.sources i).pending && !chosen.getLsbD i }

/-- DEFINE-SET (R125): the refusals; the set written with its pointer at 0, or left undefined by a count of 0. START-SET (R126, R127), in both house modes: the refusals in order; a CYCLE set starts the show at its pointer, with origin SET, and moves the pointer on, round the list, only when the start was accepted; an ALL set starts every show of its list, of one to eight, each on what the one before left when carried to its end, and the reply gives the outcome of each in list order. A defined set started by a trigger source or a schedule entry (R121, R126, R156) starts the same shows and moves its pointer alike, and each refused start is reported with origin SET, the set number and its reason where the source reports refusals, and for an entry always; START-SET reports none but in its reply. That the DEFINE-SET reply gives the set without its pointer is the model's reading (log entry 13). -/
def Obligations.SetsAreWrittenAndStarted : Prop :=
  (∀ (s : State) (tag : Byte) (n code : Nat) (ids : List Nat) (mode : SetMode), Ready s.part →
    (15 < n ∨ 8 < ids.length ∨ 1 < code ∨ (∃ id ∈ ids, 63 < id) →
      exec (.defineSet tag { number := n, shows := ids, mode := code }) s = repliesRefused s tag 18 .badField) ∧
    (n ≤ 15 → ids.length ≤ 8 → (∀ id ∈ ids, id ≤ 63) →
      ∃ v : Option SetSettings, v = (if ids = [] then none else some { shows := ids, mode := mode }) ∧
        exec (.defineSet tag { number := n, shows := ids, mode := codeOf [.cycle, .all] mode }) s = repliesOk s tag 18 (.showSet n v)
          { s.part with
            store := { s.part.store with settings := { s.part.store.settings with sets := tset s.part.store.settings.sets n v } }
            trigger := { s.part.trigger with pointers := tset s.part.trigger.pointers n 0 } })) ∧
  (∀ (s : State) (tag : Byte) (n : Nat), Ready s.part →
    (15 < n → exec (.startSet tag n) s = repliesRefused s tag 19 .badField) ∧
    (n ≤ 15 → s.part.house.alarmState ≠ .normal → exec (.startSet tag n) s = repliesRefused s tag 19 .alarm) ∧
    (n ≤ 15 → s.part.house.alarmState = .normal → (tget s.part.store.settings.sets n : Option SetSettings) = none →
      exec (.startSet tag n) s = repliesRefused s tag 19 .badField) ∧
    (∀ st : SetSettings, n ≤ 15 → s.part.house.alarmState = .normal → tget s.part.store.settings.sets n = some st →
      (∀ ptr id, st.mode = .cycle → ptr = (tget s.part.trigger.pointers n : Nat) → st.shows[ptr]? = some id →
        ∃ res q, startShow id (.showSet n) false s.part = (res, q) ∧
          (∀ k o, res = .accepted k o →
            exec (.startSet tag n) s = repliesOk s tag 19 (.setStarted n .cycle ((ptr + 1) % st.shows.length) [(id, res)])
              { q with trigger := { q.trigger with pointers := tset q.trigger.pointers n ((ptr + 1) % st.shows.length) } }) ∧
          (∀ why step, res = .refused why step →
            exec (.startSet tag n) s = repliesOk s tag 19 (.setStarted n .cycle ptr [(id, res)]) q)) ∧
      (st.mode = .all → ∃ outs q,
        (outs, q) = st.shows.foldl (fun a id => ((a.1 ++ [(id, (startShow id (.showSet n) false a.2).1)]), (startShow id (.showSet n) false a.2).2))
          (([] : List (Nat × StartResult)), s.part) ∧
        exec (.startSet tag n) s = repliesOk s tag 19 (.setStarted n .all (tget s.part.trigger.pointers n) outs) q))) ∧
  (∀ (report : Bool) (n : Nat) (st : SetSettings) (p : Blocks),
    (∀ ptr id q, st.mode = .cycle → ptr = (tget p.trigger.pointers n : Nat) → st.shows[ptr]? = some id → q = afterSetStart report n id p →
      (∀ k o, (startShow id (.showSet n) false p).1 = .accepted k o → startDefinedSet report n st p = ([(id, .accepted k o)],
        { q with trigger := { q.trigger with pointers := tset q.trigger.pointers n ((ptr + 1) % st.shows.length) } })) ∧
      (∀ why step, (startShow id (.showSet n) false p).1 = .refused why step → startDefinedSet report n st p = ([(id, .refused why step)], q))) ∧
    (st.mode = .all → startDefinedSet report n st p = st.shows.foldl (fun a id =>
      (a.1 ++ [(id, (startShow id (.showSet n) false a.2).1)], afterSetStart report n id a.2)) ([], p)))

/-! ### The level unit's requests -/

/-- The attention summary and CLEAR-LEVEL-FLAGS (R135), in every house mode and alarm state: the summary is set exactly while some flag is; the chosen flags are cleared and nothing else of any gallery changes; the reply carries the flags as they stood; and a gallery whose STUCK flag has been cleared freezes no law while the alarm is NORMAL. -/
def Obligations.ClearLevelFlagsClearsTheChosen : Prop :=
  (∀ p : Blocks, attention p = true ↔ ∃ g < 16, (tget p.level.galleries g).highFlag = true ∨ (tget p.level.galleries g).lowFlag = true ∨
    (tget p.level.galleries g).stuckFlag = true) ∧
  (∀ (s : State) (tag : Byte) (chosen : BitVec 48), Ready s.part →
    ∃ gs, exec (.clearLevelFlags tag chosen) s = repliesOk s tag 21
        (.levelFlags ((List.range 16).map (fun g => ((tget s.part.level.galleries g).highFlag, (tget s.part.level.galleries g).lowFlag,
          (tget s.part.level.galleries g).stuckFlag))))
        { s.part with level := { s.part.level with galleries := gs } } ∧
      ∀ g < 16, tget gs g = { tget s.part.level.galleries g with
        highFlag := (tget s.part.level.galleries g).highFlag && !chosen.getLsbD (3 * g)
        lowFlag := (tget s.part.level.galleries g).lowFlag && !chosen.getLsbD (3 * g + 1)
        stuckFlag := (tget s.part.level.galleries g).stuckFlag && !chosen.getLsbD (3 * g + 2) }) ∧
  (∀ (p : Blocks) (g : Nat), (tget p.level.galleries g).stuckFlag = false → p.house.alarmState = .normal → lawFrozen p g = false)

/-- GET-LEVELS (R136): the refusal; the reply with every field of each gallery from the one given, at most 8; and then the extremes of those reported forgotten, and nothing else. SET-GALLERY (R137): the refusals; the three settings written, and nothing else. Both in every house mode and alarm state. -/
def Obligations.LevelsAreReadAndThresholdsWritten : Prop :=
  (∀ (s : State) (tag : Byte) (g0 : Nat), Ready s.part →
    (15 < g0 → exec (.getLevels tag g0) s = repliesRefused s tag 22 .badField) ∧
    (g0 ≤ 15 → ∃ gs, exec (.getLevels tag g0) s = repliesOk s tag 22
        (.levels g0 (((List.range 16).filter (fun g => g0 ≤ g && g < g0 + 8)).map
          (fun g => { settings := tget s.part.store.settings.galleries g, work := tget s.part.level.galleries g })) (attention s.part))
        { s.part with level := { s.part.level with galleries := gs } } ∧
      ∀ g < 16, tget gs g = (if g0 ≤ g ∧ g < g0 + 8 then { tget s.part.level.galleries g with minimum := 1023, maximum := 0 }
        else tget s.part.level.galleries g))) ∧
  (∀ (s : State) (tag : Byte) (g low high count : Nat), Ready s.part →
    (15 < g ∨ 1023 < low ∨ 1023 < high ∨ high ≤ low ∨ (1 ≤ count ∧ count ≤ 9) ∨ 255 < count →
      exec (.setGallery tag { gallery := g, low := low, high := high, stuckCount := count }) s = repliesRefused s tag 23 .badField) ∧
    (g ≤ 15 → high ≤ 1023 → low < high → (count = 0 ∨ 10 ≤ count ∧ count ≤ 255) →
      exec (.setGallery tag { gallery := g, low := low, high := high, stuckCount := count }) s =
        repliesOk s tag 23 (.gallery g { low := low, high := high, stuckCount := count })
          (setSettings { s.part.store.settings with
            galleries := tset s.part.store.settings.galleries g { low := low, high := high, stuckCount := count } } s.part)))

/-- SET-LAW (R138, R139, R144): the refusals; the write, with its target from the latest reading and its current gain that target, the last sent gain kept where a law stood; a TRIM with the current gain offered unless the law is frozen, its node ABSENT, or a TRIM for the channel outstanding; and the removal. The model's own: a flag above 1 is refused with BAD-FIELD (log entry 12), the frozen bit is set at the write (log entry 20), the TRIM goes at the class of the channel's top entry, or AMBIENT (log entry 32), the reply says that it was queued though a full queue drop it (log entry 37), and the bytes of the reply to a removal are the yes or no alone, without the channel number that its record keeps (log entry 13). -/
def Obligations.SetLawWritesAndRemoves : Prop :=
  ∀ (s : State) (tag : Byte) (ch : Nat) (law : LawSettings) (r : SetLawReq), Ready s.part →
    (127 < r.channel ∨ 1 < r.interpolate ∨ 1 < r.jumpHigh ∨ 1 < r.jumpLow → exec (.setLaw tag r) s = repliesRefused s tag 24 .badField) ∧
    (127 < ch → exec (.setLawRemoval tag ch) s = repliesRefused s tag 24 .badField) ∧
    (ch ≤ 127 → (¬ LawAccepted law ∨ channelEntry s.part ch = none ∨ ∃ e, channelEntry s.part ch = some e ∧ e.kind = .effect) →
      exec (.setLaw tag (law.request ch)) s = repliesRefused s tag 24 .badField) ∧
    (∀ e, ch ≤ 127 → LawAccepted law → channelEntry s.part ch = some e → e.kind ≠ .effect →
      ∃ gain w q, gain = (tget s.part.level.galleries law.gallery).sample.map (targetGain law) ∧
        w = { target := gain, current := gain, frozen := lawFrozen s.part law.gallery
              lastSent := if lawOn s.part ch = none then none else (tget s.part.level.laws ch).lastSent } ∧
        q = { s.part with
          store := { s.part.store with settings := { s.part.store.settings with laws := tset s.part.store.settings.laws ch (some law) } }
          level := { s.part.level with laws := tset s.part.level.laws ch w } } ∧
        (gain = none ∨ w.frozen = true ∨ nodePresent s.part e.node = false ∨ trimOutstanding s.part ch = true →
          exec (.setLaw tag (law.request ch)) s = repliesOk s tag 24 (.lawWritten ch law gain gain false) q) ∧
        (∀ v, gain = some v → w.frozen = false → nodePresent s.part e.node = true → trimOutstanding s.part ch = false →
          exec (.setLaw tag (law.request ch)) s = repliesOk s tag 24 (.lawWritten ch law gain gain true) (offerTrim ch v q))) ∧
    (ch ≤ 127 → exec (.setLawRemoval tag ch) s = repliesOk s tag 24 (.lawRemoved ch (lawOn s.part ch).isSome)
      { s.part with
        store := { s.part.store with settings := { s.part.store.settings with laws := tset s.part.store.settings.laws ch none } }
        level := { s.part.level with laws := tset s.part.level.laws ch { target := none, current := none, lastSent := none, frozen := false } } })

/-! ### Time and the schedule -/

/-- SET-TIMEBASE (R151), in every house mode and alarm state: the refusals; nothing changes where source and rate are already set; else the settings are written and the timebase starts afresh, INTERNAL or SYNC-LOST with no good pulse and no reference. A rate carried with INTERNAL is disregarded. -/
def Obligations.SetTimebaseWritesTheSource : Prop :=
  ∀ (s : State) (tag : Byte) (code : Nat) (rate : OptField) (src : TimeSource) (rt : Option Nat), Ready s.part →
    (1 < code ∨ code = 1 ∧ (∀ n ∈ [24, 25, 30, 50, 60], rate ≠ .present n) →
      exec (.setTimebase tag code rate) s = repliesRefused s tag 26 .badField) ∧
    ((code = 0 ∧ rate ≠ .malformed ∧ src = .internal ∧ rt = none) ∨
        (code = 1 ∧ src = .sync ∧ ∃ n ∈ [24, 25, 30, 50, 60], rate = .present n ∧ rt = some n) →
      (src = s.part.store.settings.source → rt = s.part.store.settings.rate →
        exec (.setTimebase tag code rate) s = repliesOk s tag 26 (.timebase src rt s.part.time.state) s.part) ∧
      (src ≠ s.part.store.settings.source ∨ rt ≠ s.part.store.settings.rate →
        ∃ st, st = (if src = .internal then TimebaseState.internal else .syncLost) ∧
          exec (.setTimebase tag code rate) s = repliesOk s tag 26 (.timebase src rt st)
            { s.part with
              store := { s.part.store with settings := { s.part.store.settings with source := src, rate := rt } }
              time := { s.part.time with state := st, goodCount := 0, lastPulse := none, grid := none } }))

/-- SYNC_PULSE (R147, R149) and SYNC_LOST (R150): pulses are disregarded while the source is INTERNAL; the first is a reference; eight good ones lock, with a notice, and the next tick falls on the first instant of the new grid not earlier than the oscillator's; a pulse that is not good restarts the count, or while LOCKED places no tick; three periods without a pulse lose a lock, with a notice. Times are in nanoseconds (log entry 6): good is within a tenth of the nominal period. That pulses are disregarded during a load is the model's choice (log entry 23), and that SYNC_LOST has no effect unless LOCKED another (log entry 22). -/
def Obligations.SyncPulsesLockTheTimebase : Prop :=
  ∀ (s : State) (t : Nat),
    (s.part.store.loading = true ∨ s.part.store.settings.source = .internal → exec (.syncPulse t) s = becomes s (finish s.part)) ∧
    (s.part.store.loading = false → s.part.store.settings.source = .sync →
      (s.part.time.lastPulse = none →
        exec (.syncPulse t) s = becomes s (finish { s.part with time := { s.part.time with lastPulse := some t } })) ∧
      ∀ q rate good, s.part.time.lastPulse = some q → rate = s.part.store.settings.rate.getD 25 →
        good = (900000000 ≤ (t - q) * rate ∧ (t - q) * rate ≤ 1100000000) →
        (s.part.time.state = .syncLost →
          (¬ good → exec (.syncPulse t) s = becomes s (finish
            { s.part with time := { s.part.time with lastPulse := some t, goodCount := 0 } })) ∧
          (good → s.part.time.goodCount + 1 < 8 → exec (.syncPulse t) s = becomes s (finish
            { s.part with time := { s.part.time with lastPulse := some t, goodCount := s.part.time.goodCount + 1 } })) ∧
          (good → 8 ≤ s.part.time.goodCount + 1 → ∃ n, exec (.syncPulse t) s = becomes s (finish (putNotice (.sync true rate)
              { s.part with
                time := { s.part.time with
                  lastPulse := some t, goodCount := 8, state := .locked
                  grid := some { latest := 0, goodTime := t, goodNumber := 0, interval := t - q, nextIndex := n } } })) ∧
            s.part.time.lastTick + 1000000000 ≤ 100 * (t : Int) + (n : Int) * rate * (t - q : Nat) ∧
            (∀ m < n, 100 * (t : Int) + (m : Int) * rate * (t - q : Nat) < s.part.time.lastTick + 1000000000))) ∧
        (∀ g, s.part.time.state = .locked → s.part.time.grid = some g →
          (¬ good → exec (.syncPulse t) s = becomes s (finish
            { s.part with time := { s.part.time with lastPulse := some t, grid := some { g with latest := g.latest + 1 } } })) ∧
          (good → exec (.syncPulse t) s = becomes s (finish
            { s.part with
              time := { s.part.time with
                lastPulse := some t
                grid := some { g with latest := g.latest + 1, goodTime := t, goodNumber := g.latest + 1, interval := t - q } } })))) ∧
    (s.part.time.state ≠ .locked → exec .syncLost s = becomes s (finish s.part)) ∧
    (s.part.time.state = .locked → exec .syncLost s = becomes s (finish (putNotice (.sync false (s.part.store.settings.rate.getD 25))
      { s.part with time := { s.part.time with state := .syncLost, goodCount := 0, lastPulse := none, grid := none } })))

/-- The day clock (R152) and SET-TIME and GET-TIME (R153), in every house mode and alarm state. A tick adds one to the fraction, or at 99 takes the next second, as the day clock's own event does; a valid clock's new second fires the schedule, each entry carried to its end before the next, except while the settings load (R155). SET-TIME sets the clock and fires nothing. The model's own: DAY_CLOCK_ADVANCE takes a second at any fraction (log entry 4), and the clock as now set in the reply to SET-TIME is its second and weekday, without the tick fraction and the valid flag (log entry 13). -/
def Obligations.TheDayClockCounts : Prop :=
  (∀ p : Blocks,
    (p.time.fraction + 1 < 100 → takeTick .dayClock p = { p with time := { p.time with fraction := p.time.fraction + 1 } }) ∧
    (100 ≤ p.time.fraction + 1 → takeTick .dayClock p = dayAdvance p) ∧
    ∃ q, q = { p with
        time := { p.time with
          second := if p.time.second < 86399 then p.time.second + 1 else 0
          weekday := if p.time.second < 86399 then p.time.weekday else if p.time.weekday < 6 then p.time.weekday + 1 else 0
          fraction := 0 } } ∧
      (p.time.valid = false ∨ p.store.loading = true → dayAdvance p = q) ∧
      (p.time.valid = true → p.store.loading = false → dayAdvance p = (firingEntries q q.time.second q.time.weekday).foldl (fun r e => entryAction e r) q)) ∧
  (∀ s : State, exec .dayClockAdvance s = becomes s (finish (dayAdvance s.part))) ∧
  (∀ (s : State) (tag : Byte) (second weekday : Nat), Ready s.part →
    (86399 < second ∨ 6 < weekday → exec (.setTime tag second weekday) s = repliesRefused s tag 27 .badField) ∧
    (second ≤ 86399 → weekday ≤ 6 → exec (.setTime tag second weekday) s = repliesOk s tag 27 (.clock second weekday)
      { s.part with time := { s.part.time with second := second, weekday := weekday, fraction := 0, valid := true } }) ∧
    (s.part.time.valid = true → exec (.getTime tag) s = repliesOk s tag 28 (.clock s.part.time.second s.part.time.weekday) s.part) ∧
    (s.part.time.valid = false → exec (.getTime tag) s = repliesRefused s tag 28 .clockNotSet))

/-- SET-ENTRY (R157), in every house mode and alarm state: the refusals, among them those of an enabled byte above 1, of a CLOSE without a wake set and of a START, START-SET or STOP without a target (log entry 12; that a frame can leave the target or the wake set out, whatever the action, is the model's choice too, log entry 11); the write, and what a frame carries and the part disregards; and the entries that fire at a second, and each entry's action by alarm state and house mode (R155, R156, R161, R163). -/
def Obligations.ScheduleEntriesAreWrittenAndFire : Prop :=
  (∀ (s : State) (tag : Byte) (e : Nat) (en : ScheduleEntry) (r : SetEntryReq), Ready s.part →
    (95 < r.entry ∨ 86399 < r.second ∨ 4 < r.action ∨ 1 < r.enabled ∨ (r.action = 4 ∧ r.wake = .absent) ∨
        ((r.action = 0 ∨ r.action = 2) ∧ ∀ id ≤ 63, r.target ≠ .present id) ∨ (r.action = 1 ∧ ∀ n ≤ 15, r.target ≠ .present n) →
      exec (.setEntry tag r) s = repliesRefused s tag 29 .badField) ∧
    (e ≤ 95 → entryAccepted en →
      exec (.setEntry tag (en.request e)) s = repliesOk s tag 29 (.entry e en)
        (setSettings { s.part.store.settings with entries := tset s.part.store.settings.entries e en } s.part) ∧
      (∀ v, en.action = .openHouse ∨ en.action = .closeHouse →
        exec (.setEntry tag { en.request e with target := .present v }) s = exec (.setEntry tag (en.request e)) s) ∧
      (∀ w, en.action ≠ .closeHouse →
        exec (.setEntry tag { en.request e with wake := .present w }) s = exec (.setEntry tag (en.request e)) s))) ∧
  (∀ (p : Blocks) (second weekday : Nat), (firingEntries p second weekday).Pairwise (· < ·) ∧
    ∀ e, e ∈ firingEntries p second weekday ↔ e < 96 ∧ (tget p.store.settings.entries e).enabled = true ∧
      (tget p.store.settings.entries e).second = second ∧ (tget p.store.settings.entries e).mask.getLsbD weekday = true) ∧
  (∀ (p : Blocks) (e : Nat) (en : ScheduleEntry), en = tget p.store.settings.entries e →
    (en.action = .start → p.house.alarmState ≠ .normal → entryAction e p = putNotice (.startRefused (.schedule e) en.target .alarm .check) p) ∧
    (en.action = .startSet → p.house.alarmState ≠ .normal → entryAction e p = putNotice (.startRefused (.schedule e) none .alarm .check) p) ∧
    (en.action = .stop ∨ en.action = .openHouse → p.house.alarmState ≠ .normal → entryAction e p = p) ∧
    (en.action = .start ∨ en.action = .startSet ∨ en.action = .stop → p.house.alarmState = .normal → p.house.mode = .closed →
      entryAction e p = p) ∧
    (∀ id, en.action = .start → en.target = some id → p.house.alarmState = .normal → p.house.mode = .opened →
      (∀ k o q, startShow id (.schedule e) false p = (.accepted k o, q) → entryAction e p = q) ∧
      (∀ why step q, startShow id (.schedule e) false p = (.refused why step, q) →
        entryAction e p = putNotice (.startRefused (.schedule e) (some id) why step) q)) ∧
    (∀ n, en.action = .startSet → en.target = some n → p.house.alarmState = .normal → p.house.mode = .opened →
      ((tget p.store.settings.sets n : Option SetSettings) = none → entryAction e p = p) ∧
      (∀ st, (tget p.store.settings.sets n : Option SetSettings) = some st → entryAction e p = (startDefinedSet true n st p).2)) ∧
    (∀ id, en.action = .stop → en.target = some id → p.house.alarmState = .normal → p.house.mode = .opened →
      (slotHolding p id = none → entryAction e p = p) ∧
      (∀ k, slotHolding p id = some k → entryAction e p = endSlots [(k, .stopped)] p)) ∧
    (en.action = .openHouse → p.house.alarmState = .normal →
      (p.house.mode = .closed → p.house.wake.schedule = true → entryAction e p = afterOpening (.schedule e) p) ∧
      (p.house.mode = .opened ∨ p.house.wake.schedule = false → entryAction e p = p)) ∧
    (∀ w, en.action = .closeHouse → en.wake = some w →
      (∀ q, closing w (.schedule e) p = (none, q) → entryAction e p = putNotice (.closeRefused e .wakePending) q) ∧
      (∀ n q, closing w (.schedule e) p = (some n, q) → entryAction e p = q)))

/-! ### The house and the alarm -/

/-- A closing (R161), by a CLOSE request or a schedule entry, the house OPEN or CLOSED: refused while NORMAL, with TRIGGER in the wake set, when a wake line is pending; else the mode and the wake set are written and HOUSE (CLOSED) is put; and, while NORMAL, the slots of the rule end at one event, with the count of the slots ended at it, their tied followers and what ends in the scan that follows among them, each slot once (log entry 16); under alarm none ends. A yes or no above 1 is refused (log entry 12). -/
def Obligations.CloseEndsTheShows : Prop :=
  (∀ (w : WakeSet) (origin : CloseOrigin) (p p1 : Blocks),
    p1 = putNotice (.houseClosed w origin) { p with house := { p.house with mode := .closed, wake := w } } →
    (p.house.alarmState = .normal → w.trigger = true →
      (∃ l < 32, (tget p.store.settings.lines l).wake = true ∧ (tget p.trigger.sources l).pending = true) →
      closing w origin p = (none, p)) ∧
    (p.house.alarmState ≠ .normal → closing w origin p = (some 0, p1)) ∧
    (p.house.alarmState = .normal →
      (w.trigger = false ∨ ∀ l < 32, (tget p.store.settings.lines l).wake = true → (tget p.trigger.sources l).pending = false) →
      ∃ ks q ended, ks.Sublist (List.range 16) ∧
        (∀ k, k ∈ ks ↔ ∃ r sh, slotOf p k = some r ∧ showOf p r.showId = some sh ∧ closes r sh) ∧
        q = endSlots (ks.map (fun k => (k, EndReason.closed))) p1 ∧ SlotsFrame p1 q ∧
        ended = (endingsOf (endSlotsWith pendingScan (ks.map (fun k => (k, EndReason.closed)))) p1).eraseDups ∧
        closing w origin p = (some ended.length, q) ∧
        ended.Nodup ∧ (∀ k ∈ ended, k < 16) ∧ (∀ k ∈ ks ++ tiedTo p1 ks, k ∈ ended) ∧
        (p.map.waitOrder = [] → ended = ks ++ tiedTo p1 ks) ∧
        (ks = [] → p.runner.groups = [] → p.runner.foresight = .idle → ended = [] ∧ q = p1))) ∧
  (∀ (s : State) (tag : Byte) (w : WakeReq) (ws : WakeSet), Ready s.part →
    (1 < w.schedule ∨ 1 < w.trigger → exec (.closeHouse tag w) s = repliesRefused s tag 31 .badField) ∧
    (w.schedule = ws.schedule.toNat → w.trigger = ws.trigger.toNat →
      (∀ q, closing ws .link s.part = (none, q) → exec (.closeHouse tag w) s = repliesRefused s tag 31 .wakePending) ∧
      (∀ n q, closing ws .link s.part = (some n, q) → exec (.closeHouse tag w) s = repliesOk s tag 31 (.houseClosed ws n) q)))

/-- OPEN (R162, R163): refused under alarm; no effect when the house is OPEN; else the opening: the mode, its notice, the autostarts in ascending order, then the waiting sources in ascending order, each carried to its end before the next; the house is then OPEN, and the cue store and the settings are as they were. -/
def Obligations.OpenCarriesOutTheOpening : Prop :=
  ∀ (s : State) (tag : Byte), Ready s.part →
    (s.part.house.alarmState ≠ .normal → exec (.openHouse tag) s = repliesRefused s tag 32 .alarm) ∧
    (s.part.house.alarmState = .normal → s.part.house.mode = .opened →
      exec (.openHouse tag) s = repliesOk s tag 32 (.houseOpen .opened false) s.part) ∧
    (s.part.house.alarmState = .normal → s.part.house.mode = .closed →
      exec (.openHouse tag) s = repliesOk s tag 32 (.houseOpen .opened true) (afterOpening .link s.part) ∧
      (afterOpening .link s.part).store = s.part.store ∧
      (afterOpening .link s.part).house = { s.part.house with mode := .opened })

/-- ALARM-ACK, at any arrival after the load, a save writing or not (R167); and RESUME (R169): the refusals; the override's end, NORMAL, the notice, the flag cleared, and the autostarts where the house is OPEN. That the reply counts the autostarts handed over is the model's reading (log entry 15). -/
def Obligations.AcknowledgeAndResume : Prop :=
  (∀ (s : State) (tag : Byte), Prompt s.part →
    (s.part.house.alarmState = .normal → exec (.alarmAck tag) s = repliesRefused s tag 33 .notInAlarm) ∧
    (s.part.house.alarmState ≠ .normal → exec (.alarmAck tag) s = repliesOk s tag 33 (.acknowledged s.part.house.alarmState s.part.house.alert)
      { s.part with house := { s.part.house with acknowledged := true, escalation := none, alert := false } })) ∧
  (∀ (s : State) (tag : Byte), Ready s.part →
    (s.part.house.alarmState = .normal → exec (.resume tag) s = repliesRefused s tag 34 .notInAlarm) ∧
    (s.part.house.alarmState = .alarm → exec (.resume tag) s = repliesRefused s tag 34 .alarm) ∧
    (s.part.house.alarmState = .alarmHeld → s.part.house.acknowledged = false → exec (.resume tag) s = repliesRefused s tag 34 .notAcknowledged) ∧
    (s.part.house.alarmState = .alarmHeld → s.part.house.acknowledged = true →
      ∃ p1 p2, SlotsFrame s.part p1 ∧
        ((∀ id, s.part.store.settings.overrideShow = some id → slotHolding s.part id = none) → p1 = s.part) ∧
        (∀ id k, s.part.store.settings.overrideShow = some id → slotHolding s.part id = some k → p1 = endSlots [(k, .stopped)] s.part) ∧
        p2 = putNotice (.alarm .cleared) { p1 with house := { p1.house with alarmState := .normal, acknowledged := false } } ∧
        (s.part.house.mode = .closed → exec (.resume tag) s = repliesOk s tag 34 (.resumed 0) p2) ∧
        (s.part.house.mode = .opened →
          exec (.resume tag) s = repliesOk s tag 34 (.resumed (autostartIds p2).length) ((autostartIds p2).foldl afterAutostart p2))))

/-- SET-ALARM (R170): the checks in order, and both settings written; with no image loaded no show is designated and the time is 10 s. -/
def Obligations.SetAlarmDesignatesTheOverride : Prop :=
  (∀ (s : State) (tag : Byte) (id t : Nat), Ready s.part →
    (63 < id ∨ t < 1 ∨ 60 < t → exec (.setAlarm tag (.present id) t) s = repliesRefused s tag 35 .badField) ∧
    (t < 1 ∨ 60 < t → exec (.setAlarm tag .absent t) s = repliesRefused s tag 35 .badField) ∧
    (1 ≤ t → t ≤ 60 →
      (s.part.house.alarmState ≠ .normal → exec (.setAlarm tag .absent t) s = repliesRefused s tag 35 .alarm ∧
        (id ≤ 63 → exec (.setAlarm tag (.present id) t) s = repliesRefused s tag 35 .alarm)) ∧
      (s.part.house.alarmState = .normal →
        exec (.setAlarm tag .absent t) s = repliesOk s tag 35 (.alarmSettings none t)
          (setSettings { s.part.store.settings with overrideShow := none, ackTime := t } s.part) ∧
        (id ≤ 63 → showOf s.part id = none → exec (.setAlarm tag (.present id) t) s = repliesRefused s tag 35 .noShow) ∧
        (∀ sh, showOf s.part id = some sh → sh.cls ≠ .override → exec (.setAlarm tag (.present id) t) s = repliesRefused s tag 35 .badClass) ∧
        (∀ sh, showOf s.part id = some sh → sh.cls = .override →
          exec (.setAlarm tag (.present id) t) s = repliesOk s tag 35 (.alarmSettings (some id) t)
            (setSettings { s.part.store.settings with overrideShow := some id, ackTime := t } s.part))))) ∧
  Settings.initial.overrideShow = none ∧ Settings.initial.ackTime = 10

/-! ### The immediate requests -/

/-- GET-STATUS (R179), at any arrival after the load, a save writing or not: every item as it stands, the six counts summing to 16, and the overrun flag cleared by the reply that carries it; nothing else changes. -/
def Obligations.GetStatusReportsTheItems : Prop :=
  ∀ (s : State) (tag : Byte), Prompt s.part →
    ∃ counts : List Nat, counts.sum = 16 ∧
      counts = ((List.range 16).filter (fun k => slotOf s.part k = none)).length ::
        [SlotState.pending, .priming, .running, .held, .suspended].map
          (fun st => ((List.range 16).filter (fun k => (slotOf s.part k).map (fun r => r.state) = some st)).length) ∧
      exec (.getStatus tag) s = repliesOk s tag 36
        (.status
          { mode := s.part.house.mode, wake := s.part.house.wake, alarmState := s.part.house.alarmState
            acknowledged := s.part.house.acknowledged, alert := s.part.house.alert, source := s.part.store.settings.source
            timebase := s.part.time.state, clockValid := s.part.time.valid, slotCounts := counts
            cuesUsed := (s.part.store.settings.shows.toList.map cueCountOf).sum, saving := s.part.store.save.isSome
            attention := attention s.part, lost := s.part.link.lost, overrun := s.part.link.overrun
            waiting := s.part.link.requests.length, executing := s.part.store.save.isSome })
        { s.part with link := { s.part.link with overrun := false } }

/-- STOP-ALL (R37, R66, R69, R105, R180), at any arrival after the load, a save writing or not: every slot ends STOPPED and is FREE, with its notice in slot order, and its show rests; the stacks, the wait order and the groups are empty; the transactions of slots are withdrawn and a HUSH is offered; every block but the map, the runner, the bus queue and the notices is as it was. -/
def Obligations.StopAllEndsEverySlot : Prop :=
  ∀ (s : State) (tag : Byte), Prompt s.part →
    ∃ p, exec (.stopAll tag) s = repliesOk s tag 37 (.stoppedAll ((List.range 16).filter (fun k => slotOf s.part k ≠ none)).length)
        (offer hushTx { p with bus := { p.bus with queue := p.bus.queue.filter (fun t => t.origin.isNone) } }) ∧
      SlotsFrame s.part p ∧ p.bus = s.part.bus ∧ (∀ k, slotOf p k = none) ∧ (∀ ch, ownersOf p ch = []) ∧ p.map.waitOrder = [] ∧
      p.map.waitCounter = s.part.map.waitCounter ∧ p.runner.groups = [] ∧
      (s.part.link.notices.length ≤ 16 → p.link.lost = s.part.link.lost ∧
        p.link.notices = s.part.link.notices ++ (List.range 16).filterMap (fun k => (slotOf s.part k).map (fun r =>
          .showEnded k r.showId r.origin .stopped r.step r.skipped))) ∧
      (∀ id, (∀ k r, slotOf s.part k = some r → r.showId ≠ id) →
        (tget p.runner.rest id : Option Timer) = tget s.part.runner.rest id) ∧
      (∀ k r sh, slotOf s.part k = some r → showOf s.part r.showId = some sh →
        (tget p.runner.rest r.showId : Option Timer) = if sh.rest = 0 then none else some { ticks := sh.rest * 100, fresh := true })

/-- RESET (R20, R74, R86, R109, R130, R146, R159, R172, R181), at any arrival after the load: the requests waiting are answered OVERTAKEN and the RESET reply follows; the slots, stacks, groups and timers are cleared with no ending; a HUSH goes first, to the bus at once where it is free (log entry 8), and a POLL for each referenced node after it, the transaction on the bus left alone; each block is at its reset values; RESET-DONE is the only notice; the cue store, every setting, a save in progress, the house mode and wake set, the day clock, the assembler and the overrun flag are as they were. -/
def Obligations.ResetKeepsTheStore : Prop :=
  ∀ (s : State) (tag : Byte), s.part.store.loading = false → s.part.link.replies.length < 8 →
    ∃ p polls, exec (.reset tag) s = becomes s (transmit p) ∧
      p.link = { s.part.link with
        requests := [], notices := [.resetDone], lost := false
        replies := s.part.link.replies ++ s.part.link.requests.map (fun q => .refused q.tag q.kind .overtaken) ++ [.ok tag 38 .resetTaken] } ∧
      p.store = s.part.store ∧
      (∀ k, slotOf p k = none) ∧ (∀ id, (tget p.runner.rest id : Option Timer) = none) ∧ p.runner.groups = [] ∧
      (∀ ch, ownersOf p ch = []) ∧ p.map.waitOrder = [] ∧ p.map.waitCounter = 0 ∧
      polls = ((List.range 33).filter (fun n => 1 ≤ n ∧ nodeReferenced s.part.store.settings n)).map pollTx ∧
      (∀ j, s.part.bus.job = some j → p.bus.job = some j ∧ p.bus.queue = hushTx :: polls) ∧
      (s.part.bus.job = none → p.bus.queue = polls ∧
        p.bus.job = some { tx := { hushTx with attempts := 1 }, timeout := s.part.store.settings.replyTimeout, retries := s.part.store.settings.retryCount }) ∧
      p.bus.pollTicks = s.part.bus.pollTicks ∧
      (∀ n, nodeRecord p n = { presence := .present, failures := 0, toggle := false, lastNak := none }) ∧
      p.trigger.lines = s.part.trigger.lines ∧ p.trigger.pointers = s.part.trigger.pointers ∧
      (∀ i < 64, tget p.trigger.sources i = { tget s.part.trigger.sources i with pending := false, rearm := none }) ∧
      (∀ g < 16, tget p.level.galleries g = { tget s.part.level.galleries g with
        highFlag := false, lowFlag := false, stuckFlag := false, equalRun := 0, runReported := false, minimum := 1023, maximum := 0 }) ∧
      (∀ ch < 128, tget p.level.laws ch = { tget s.part.level.laws ch with current := none, lastSent := none }) ∧
      p.time = { s.part.time with
        state := if s.part.store.settings.source = .internal then .internal else .syncLost
        goodCount := 0, lastPulse := none, grid := none } ∧
      p.house.mode = s.part.house.mode ∧ p.house.wake = s.part.house.wake ∧ p.house.alarmState = .normal ∧ p.house.acknowledged = false ∧
      p.house.escalation = none ∧ p.house.alert = false ∧ p.house.qualified = none ∧ p.house.run = 0

/-! ### Ticks and timers -/

/-- SHOW_TICK (R147, R148; log entry 5), as the command chooses it: with or without a tick instant, and each taker that is not kept for later taking its tick. A tick instant is an event of its own, before which takers that still have the tick before in hand take that one: it falls by the timebase state, puts the tick in the hand of every taker, or of the day clock alone while the settings load, and what has come into its state or was loaded since the tick before, the escalation timer among it, is marked to count from this one on (log entry 33). Each taking is an event of its own, with its own end (R175, R177, R178), in the order the command begins and the model completes; no taker takes a tick twice, and a taker kept for later has it in hand still. -/
def Obligations.AShowTickReachesEveryTaker : Prop :=
  (∀ (s : State) (first late : List TickTaker), ∃ takers instant,
    takers = (first ++ allTakers).filter (fun t => t ∉ late) ∧
    instant = finish
      { takerEvents allTakers s.part with
        house := { (takerEvents allTakers s.part).house with
          escalation := (takerEvents allTakers s.part).house.escalation.map (fun t => { t with fresh := false }) }
        time := { (takerEvents allTakers s.part).time with
          lastTick := nextTick (takerEvents allTakers s.part)
          grid := (takerEvents allTakers s.part).time.grid.map (fun g => { g with nextIndex := g.nextIndex + 1 })
          inHand := if (takerEvents allTakers s.part).store.loading = true then [.dayClock] else allTakers }
        runner := { (takerEvents allTakers s.part).runner with
          slots := tmap (fun o => o.map (fun r => { r with began := false })) (takerEvents allTakers s.part).runner.slots
          rest := tmap (fun o => o.map (fun t => { t with fresh := false })) (takerEvents allTakers s.part).runner.rest }
        trigger := { (takerEvents allTakers s.part).trigger with
          sources := tmap (fun w => { w with rearm := w.rearm.map (fun t => { t with fresh := false }) })
            (takerEvents allTakers s.part).trigger.sources } } ∧
    exec (.showTick { instant := true, first := first, late := late }) s = becomes s (takerEvents takers instant) ∧
    exec (.showTick { instant := false, first := first, late := late }) s = becomes s (takerEvents takers s.part) ∧
    (s.part.time.inHand = [] → takerEvents allTakers s.part = s.part)) ∧
  (∀ p : Blocks, takerEvents [] p = p ∧ (∀ t ts,
    (t ∈ p.time.inHand → takerEvents (t :: ts) p = takerEvents ts (finish (takeTick t
      { p with time := { p.time with inHand := p.time.inHand.filter (fun u => u ≠ t) } }))) ∧
    (t ∉ p.time.inHand → takerEvents (t :: ts) p = takerEvents ts p))) ∧
  (∀ (ts : List TickTaker) (p : Blocks), (takerEvents ts p).time.inHand = p.time.inHand.filter (fun t => t ∉ ts)) ∧
  (∀ t, t ∈ allTakers ↔ (∃ k < 16, t = .slot k) ∨ t ∈ [TickTaker.restTimers, .rearmTimers, .polling, .escalation, .dayClock]) ∧
  (∀ p : Blocks, (p.time.state ≠ .locked → nextTick p = p.time.lastTick + 1000000000) ∧
    (∀ g, p.time.state = .locked → p.time.grid = some g → nextTick p = 100 * (g.goodTime : Int) +
      ((g.nextIndex : Int) * (p.store.settings.rate.getD 25 : Nat) - 100 * (g.goodNumber : Int)) * (g.interval : Int)))

/-- How a slot takes a tick (R49, R54, R59), and HOLD_TIMEOUT and PRIME_TIMEOUT, which bring a running deadline or timer to its end (R51, R60, R80; log entry 4). A RUNNING slot's clock goes up by one, the due cues fire and the length is checked; a HELD slot's deadline and a PRIMING slot's timer go down by one, and at 0 the hold is released and the priming settled; nothing else of a slot counts. A HELD slot counts each tick that it takes while HELD; a RUNNING or PRIMING slot that came into its state since the tick instant does not count that tick, for PRIMING the model's reading (log entry 33); on a FREE slot, and where nothing runs, the two commands change nothing (log entry 22). -/
def Obligations.ASlotCountsTicks : Prop :=
  (∀ (p : Blocks) (k : Nat), slotOf p k = none → takeTick (.slot k) p = p) ∧
  (∀ (s : State) (k : Nat), slotOf s.part k = none →
    exec (.holdTimeout k) s = becomes s (finish s.part) ∧ exec (.primeTimeout k) s = becomes s (finish s.part)) ∧
  (∀ (s : State) (k : Nat) (r : SlotRec) (p : Blocks), p = s.part → slotOf p k = some r →
    (r.began = true → r.state ≠ .held → takeTick (.slot k) p = p) ∧
    (r.began = false →
      (r.state = .running → takeTick (.slot k) p = lengthCheck k (fireDue k (setSlot k (some { r with clock := r.clock + 1 }) p))) ∧
      (∀ t sh, r.state = .priming → r.primeTimer = some t → showOf p r.showId = some sh →
        (2 ≤ t → takeTick (.slot k) p = setSlot k (some { r with primeTimer := some (t - 1) }) p) ∧
        (t ≤ 1 → takeTick (.slot k) p = afterPriming k r sh p))) ∧
    (∀ d, r.state = .held → r.deadline = some d →
      (2 ≤ d → takeTick (.slot k) p = setSlot k (some { r with deadline := some (d - 1) }) p) ∧
      (d ≤ 1 → takeTick (.slot k) p = afterHold k r p)) ∧
    (r.state = .pending ∨ r.state = .suspended ∨ r.state = .held ∧ r.deadline = none ∨ r.state = .priming ∧ r.primeTimer = none →
      takeTick (.slot k) p = p) ∧
    ((r.state = .held → r.deadline ≠ none → exec (.holdTimeout k) s = becomes s (finish (afterHold k r p))) ∧
      (r.state ≠ .held ∨ r.deadline = none → exec (.holdTimeout k) s = becomes s (finish p)) ∧
      (∀ sh, r.state = .priming → r.primeTimer ≠ none → showOf p r.showId = some sh →
        exec (.primeTimeout k) s = becomes s (finish (afterPriming k r sh p))) ∧
      (r.state ≠ .priming ∨ r.primeTimer = none → exec (.primeTimeout k) s = becomes s (finish p))))

/-- The cues that fire (R56 to R58, R71, R91): from the cue pointer, each due cue in list order, up to one not yet due, the end of the list, or a HOLD. A MARK puts its notice; a HOLD makes the slot HELD on it; any other is offered as a transaction at the slot's class, or is counted as skipped when its node is ABSENT. -/
def Obligations.DueCuesFireInOrder : Prop :=
  ∀ (p : Blocks) (k : Nat) (r : SlotRec) (sh : ShowRecord), slotOf p k = some r → showOf p r.showId = some sh →
    (r.state ≠ .running → fireDue k p = p) ∧
    (sh.cues.length ≤ r.pointer → fireDue k p = p) ∧
    (∀ c, sh.cues[r.pointer]? = some c →
      (r.clock < c.offset → fireDue k p = p) ∧
      (r.state = .running → c.offset ≤ r.clock →
        (∀ n, c.action = .mark n →
          fireDue k p = fireDue k (putNotice (.mark k r.showId n r.pointer r.clock) (setSlot k (some { r with pointer := r.pointer + 1 }) p))) ∧
        (∀ t, c.action = .hold t →
          fireDue k p = putNotice (.showHeld k r.showId r.pointer t)
            (setSlot k (some { r with state := .held, deadline := if t = 0 then none else some (t * 100) }) p)) ∧
        (∀ i kind ch e, c.action.sends = some (i, kind) → sh.channels[i]? = some ch → channelEntry p ch = some e →
          (nodePresent p e.node = true →
            fireDue k p = fireDue k (offer
              { node := e.node, nodeChannel := some e.nodeChannel, channel := some ch, kind := kind, cls := r.cls, origin := some k
                cueIndex := some r.pointer, owner := (entryOn p ch k).map (fun o => o.uid), toggle := none, attempts := 0 }
              (setSlot k (some { r with pointer := r.pointer + 1 }) p))) ∧
          (nodePresent p e.node = false →
            fireDue k p = fireDue k (setSlot k (some { r with pointer := r.pointer + 1, skipped := moreSkipped r.skipped }) p)))))

/-- Priming (R49), GO (R27, R52) and the length check (R55), R27 by which GO empties the last states. Priming prepares each VIDEO or AUDIO channel of the list that has a PLAY, with the clip of its earliest PLAY, in list order; GO begins at cue 0 with the last states absent; at the length, with every cue passed, the show loops or ends COMPLETE. A launch group (R76 to R82): at a leader's granted claim the group is made, the leader primes, each show that names it as leader is started in ascending order, checked, kept off the channels of the members and of equal or higher classes, and joins the group and primes; the group has then formed, and goes when every member is at step 2, leader first. A group whose leader has left, or that has formed and holds no follower, dissolves. A group that dissolves or goes is deleted and its members at step 2 take GO there and then, leader first; where it dissolves, or goes at a removal, a member that itself ends in the action at hand takes none. That the action, which ends slots or starts a show, is what counts here, that its endings are those of a run of it in which no GO is withheld, and that several groups go in the order in which they were formed, is the model's choice (log entry 18). That a leader or follower whose granted claim no longer stands does not prime, and that a leader that lost its claim starts its followers without a group, is the model's reading (log entry 19). -/
def Obligations.PrimingGoAndLength : Prop :=
  (∀ (p : Blocks) (sh : ShowRecord) (ch clip : Nat), (ch, clip) ∈ primeList p sh ↔
    ∃ i e before c after lvl loop, sh.channels[i]? = some ch ∧ channelEntry p ch = some e ∧ (e.kind = .video ∨ e.kind = .audio) ∧
      sh.cues = before ++ c :: after ∧ c.action = .play i clip lvl loop ∧ ∀ d ∈ before, ∀ n l b, d.action ≠ .play i n l b) ∧
  (∀ (p : Blocks) (sh : ShowRecord), ((primeList p sh).map (fun c => c.1)).Sublist sh.channels) ∧
  (∀ (p : Blocks) (k ch : Nat), ownersOf (clearLast k p) ch =
    (ownersOf p ch).map (fun e => if e.slot = k then { e with last := none } else e)) ∧
  (∀ (p : Blocks) (k : Nat) (r : SlotRec) (sh : ShowRecord), slotOf p k = some r → showOf p r.showId = some sh →
    (∃ q, q = setSlot k (some
        { r with
          state := .priming, step := 1, missing := (primeList p sh).map (fun c => c.1), primeTimer := some (sh.primeTimeout * 10)
          began := true }) p ∧
      (primeList p sh ≠ [] →
        enterPriming k p = (primeList p sh).foldl (fun b c => offerChannel c.1 (.prepare c.2) r.cls (some k) none none b) q) ∧
      (primeList p sh = [] → r.group = none → enterPriming k p = goSlot k q) ∧
      (∀ l, primeList p sh = [] → r.group = some l →
        enterPriming k p = considerGroup l (setSlot k (some
          { r with state := .priming, step := 2, missing := [], primeTimer := none, began := true }) p))) ∧
    goSlot k p = fireDue k (putNotice (.showStarted k r.showId r.origin r.missing r.late) (clearLast k (setSlot k (some
      { r with state := .running, step := 3, clock := 0, pointer := 0, primeTimer := none, group := none, began := true }) p))) ∧
    (r.state ≠ .running ∨ r.clock < sh.length ∨ r.pointer < sh.cues.length → lengthCheck k p = p) ∧
    (r.state = .running → sh.length ≤ r.clock → sh.cues.length ≤ r.pointer →
      (r.repeats = some 0 → lengthCheck k p = endSlots [(k, .complete)] p) ∧
      (r.repeats ≠ some 0 → lengthCheck k p =
        fireDue k (clearLast k (setSlot k (some { r with clock := 0, pointer := 0, repeats := r.repeats.map (fun n => n - 1) }) p))))) ∧
  (∀ (p : Blocks) (k : Nat), atStep2 p k = true ↔ ∃ r, slotOf p k = some r ∧ r.state = .priming ∧ r.step = 2) ∧
  (∀ (p q : Blocks) (k id : Nat) (origin : Origin) (fs : List Nat),
    fs = (List.range 64).filter (fun f => (showOf p f).any (fun sf => sf.leader = some id)) → fs ≠ [] → origin ≠ .alarm →
    (∀ r, claimStands p k = true → slotOf p k = some r → q = enterPriming k (setSlot k (some { r with group := some k })
      { p with runner := { p.runner with
        groups := p.runner.groups ++ [{ leader := k, followers := [], forming := true, leaderIn := true }] } })) →
    (claimStands p k = false → q = p) →
    ∃ q1, q1 = fs.foldl (fun b f => startFollower pendingScan k b f) q ∧
      afterClaim pendingScan k id origin p = considerGroup k { q1 with runner := { q1.runner with
        groups := q1.runner.groups.map (fun g => if g.leader = k then { g with forming := false } else g) } }) ∧
  (∀ (p : Blocks) (l f : Nat) (sf : ShowRecord), showOf p f = some sf → sf.cls ≠ .override →
    (p.house.alarmState ≠ .normal →
      startFollower pendingScan l p f = putNotice (.startRefused (.leader l) (some f) .alarm .check) p) ∧
    (p.house.alarmState = .normal → sf.cues = [] →
      startFollower pendingScan l p f = putNotice (.startRefused (.leader l) (some f) .emptyShow .check) p) ∧
    (p.house.alarmState = .normal → sf.cues ≠ [] →
      (slotHolding p f ≠ none → startFollower pendingScan l p f = putNotice (.startRefused (.leader l) (some f) .already .check) p) ∧
      (slotHolding p f = none → (∀ k < 16, slotOf p k ≠ none) →
        startFollower pendingScan l p f = putNotice (.startRefused (.leader l) (some f) .slotFull .check) p) ∧
      (∀ k r0 members clash q, slotHolding p f = none → k < 16 → slotOf p k = none → (∀ j < k, slotOf p j ≠ none) →
        r0 = takenAs f sf (.leader l) →
        members = (match p.runner.groups.find? (fun g => g.leader = l && g.forming) with
          | none => []
          | some g => (if g.leaderIn = true then [g.leader] else []) ++ g.followers) →
        (clash ↔ (∃ m ∈ members, ∃ rm shm, slotOf p m = some rm ∧ showOf p rm.showId = some shm ∧ ∃ ch ∈ sf.channels, ch ∈ shm.channels) ∨
          ∃ ch ∈ sf.channels, ∃ e, topEntry p ch = some e ∧ sf.cls.rank ≤ e.cls.rank) →
        q = grant pendingScan k (setSlot k (some r0) p) →
        (clash → startFollower pendingScan l p f = putNotice (.startRefused (.leader l) (some f) .channelBusy .claim) p) ∧
        (¬ clash → claimStands q k = false → startFollower pendingScan l p f = q) ∧
        (¬ clash → claimStands q k = true →
          (q.runner.groups.find? (fun g => g.leader = l && g.forming) = none → startFollower pendingScan l p f = enterPriming k q) ∧
          (∀ g r, q.runner.groups.find? (fun g => g.leader = l && g.forming) = some g → g.leaderIn = true → slotOf q k = some r →
            startFollower pendingScan l p f = enterPriming k (setSlot k (some { r with group := some l })
              { q with runner := { q.runner with
                groups := q.runner.groups.map (fun g => if g.leader = l ∧ g.forming = true then { g with followers := g.followers ++ [k] } else g) } })))))) ∧
  (∀ (p : Blocks) (l : Nat), p.runner.groups.find? (fun g => g.leader = l) = none → considerGroup l p = p) ∧
  (∀ (p gone : Blocks) (g : LaunchGroup) (members ahead : List Nat) (breaks goes : Prop),
    members = (if g.leaderIn = true then [g.leader] else []) ++ g.followers →
    ahead = (match p.runner.foresight with
      | .known ks => ks
      | .idle => []
      | .recording _ => []) →
    gone = members.foldl (fun q m => match slotOf q m with
        | none => q
        | some r => setSlot m (some { r with group := none }) q)
      { p with runner := { p.runner with groups := p.runner.groups.filter (fun h => h.leader ≠ g.leader) } } →
    (breaks ↔ g.leaderIn = false ∨ g.forming = false ∧ g.followers = []) →
    (goes ↔ g.forming = false ∧ ∀ m ∈ members, atStep2 p m = true) →
    (breaks ∨ goes → settleGroup g p =
      (members.filter (fun m => m ∉ ahead)).foldl (fun q m => if atStep2 q m = true then goSlot m q else q) gone) ∧
    (¬ breaks → ¬ goes → settleGroup g p = p) ∧
    (p.runner.groups.find? (fun h => h.leader = g.leader) = some g →
      (breaks → considerGroup g.leader p =
        (members.filter (fun m => m ∉ ahead)).foldl (fun q m => if atStep2 q m = true then goSlot m q else q) gone) ∧
      (¬ breaks → goes → considerGroup g.leader p = members.foldl (fun q m => if atStep2 q m = true then goSlot m q else q) gone) ∧
      (¬ breaks → ¬ goes → considerGroup g.leader p = p))) ∧
  (∀ p : Blocks, settleGroups p = p.runner.groups.foldl (fun q g => settleGroup g q) p) ∧
  (∀ (p : Blocks) (k : Nat) (r : SlotRec), slotOf p k = some r → leaveGroup k p = setSlot k (some { r with group := none })
    { p with runner := { p.runner with groups := p.runner.groups.map (fun g =>
      { g with leaderIn := g.leaderIn && decide (g.leader ≠ k), followers := g.followers.filter (fun f => f ≠ k) }) } }) ∧
  (∀ (act : Blocks → Blocks) (p q : Blocks) (ks : List Nat),
    ((act (setForesight (.recording []) p)).runner.foresight = .recording ks → endingsOf act p = ks) ∧
    (q = act (setForesight (.known (endingsOf act p)) p) → foresee act p = setForesight .idle q)) ∧
  (∀ (f : Foresight) (p : Blocks), setForesight f p = { p with runner := { p.runner with foresight := f } })

/-- The other takers of a tick (R69, R103, R118, R167), and the commands that bring a running timer to its end (log entry 4): the rest and rearm timers, the polling rounds and the escalation timer. A timer loaded since the tick instant does not count that tick (log entry 33). A polling round queues a POLL, in ascending order, for each ABSENT referenced node that has none queued or on the bus, as far as the queue has room; on a free bus with nothing queued the first goes straight to the bus (log entry 8). -/
def Obligations.TimersAndPollingCountTicks : Prop :=
  (∀ p : Blocks, ∃ rest, takeTick .restTimers p = { p with runner := { p.runner with rest := rest } } ∧
    ∀ id < 64, ((tget p.runner.rest id : Option Timer) = none → (tget rest id : Option Timer) = none) ∧
      ∀ t, (tget p.runner.rest id : Option Timer) = some t → (tget rest id : Option Timer) =
        if t.fresh then some t else if t.ticks ≤ 1 then none else some { t with ticks := t.ticks - 1 }) ∧
  (∀ p : Blocks, ∃ src, takeTick .rearmTimers p = { p with trigger := { p.trigger with sources := src } } ∧
    ∀ i < 64, ((tget p.trigger.sources i).rearm = none → tget src i = tget p.trigger.sources i) ∧
      ∀ t, (tget p.trigger.sources i).rearm = some t → tget src i = { tget p.trigger.sources i with
        rearm := if t.fresh then some t else if t.ticks ≤ 1 then none else some { t with ticks := t.ticks - 1 } }) ∧
  (∀ p : Blocks,
    (p.bus.pollTicks + 1 < 100 → takeTick .polling p = { p with bus := { p.bus with pollTicks := p.bus.pollTicks + 1 } }) ∧
    (100 ≤ p.bus.pollTicks + 1 → takeTick .polling p = pollingRound { p with bus := { p.bus with pollTicks := 0 } }) ∧
    (p.house.escalation = none → takeTick .escalation p = p) ∧
    (∀ t, p.house.escalation = some t → t.fresh = true → takeTick .escalation p = p) ∧
    (∀ t, p.house.escalation = some t → t.fresh = false → 2 ≤ t.ticks →
      takeTick .escalation p = { p with house := { p.house with escalation := some { t with ticks := t.ticks - 1 } } }) ∧
    (∀ t, p.house.escalation = some t → t.fresh = false → t.ticks ≤ 1 → takeTick .escalation p =
      putNotice (.alarm .escalated) { p with house := { p.house with escalation := none, alert := true } }) ∧
    (∀ polls, p.bus.job = none → p.store.loading = false → p.bus.queue = [] →
      polls = ((List.range 33).filter (fun n => 1 ≤ n ∧ nodePresent p n = false ∧ nodeReferenced p.store.settings n = true)).map pollTx →
      (polls = [] → pollingRound p = p) ∧
      (∀ t ts, polls = t :: ts → pollingRound p = { p with bus := { p.bus with
        queue := ts
        job := some { tx := { t with toggle := some (nodeRecord p t.node).toggle, attempts := 1 },
                      timeout := p.store.settings.replyTimeout, retries := p.store.settings.retryCount } } })) ∧
    (∀ j polls, p.bus.job = some j → p.bus.queue.length ≤ 64 →
      polls = ((List.range 33).filter (fun n => 1 ≤ n ∧ nodePresent p n = false ∧ nodeReferenced p.store.settings n = true ∧
        pollOutstanding p n = false)).map pollTx →
      pollingRound p = { p with bus := { p.bus with queue := p.bus.queue ++ polls.take (64 - p.bus.queue.length) } })) ∧
  (∀ (s : State) (n : Nat),
    exec (.restTimerExpiry n) s = becomes s (finish { s.part with runner := { s.part.runner with rest := tset s.part.runner.rest n none } }) ∧
    exec (.rearmTimerExpiry n) s = becomes s (finish (withSource n { tget s.part.trigger.sources n with rearm := none } s.part)) ∧
    (s.part.house.escalation = none → exec .escalation s = becomes s (finish s.part)) ∧
    (s.part.house.escalation ≠ none → exec .escalation s = becomes s (finish (putNotice (.alarm .escalated)
      { s.part with house := { s.part.house with escalation := none, alert := true } }))) ∧
    (s.part.store.loading = true → exec .pollingRound s = becomes s (finish s.part)) ∧
    (s.part.store.loading = false → exec .pollingRound s = becomes s (finish (pollingRound
      { s.part with bus := { s.part.bus with pollTicks := 0 } }))))

/-! ### Trigger lines and sources -/

/-- LINE_SAMPLE (R111 to R114) and REPEAT_EVENT (R113; log entry 4): none while the settings load or the line is disabled; the first level is taken as found; a sample of the qualified level or short of the stable count counts a repeat down, and a repeat is reported and handed on; a change at the stable count is qualified, reported, and handed on when it matches the edge. -/
def Obligations.ALineIsSampledAndQualified : Prop :=
  ∀ (s : State) (l : Nat) (high : Bool) (st : LineSettings) (w : LineWork) (raw : LineState),
    st = tget s.part.store.settings.lines l → w = tget s.part.trigger.lines l →
    raw = (if (high = true ↔ st.activeLevel = .high) then LineState.active else .inactive) →
    (s.part.store.loading = true ∨ st.enabled = false → exec (.lineSample l high) s = becomes s (finish s.part) ∧
      exec (.repeatEvent l) s = becomes s (finish s.part)) ∧
    (s.part.store.loading = false → st.enabled = true →
      (w.qualified = none →
        exec (.lineSample l high) s = becomes s (finish (withLine l { w with qualified := some raw, stable := 0 } s.part))) ∧
      (∀ q n, w.qualified = some q → (q = raw ∧ n = 0 ∨ q ≠ raw ∧ n = w.stable + 1 ∧ n < st.stableCount) →
        (w.countdown = none → exec (.lineSample l high) s = becomes s (finish (withLine l { w with stable := n } s.part))) ∧
        (∀ c, w.countdown = some c → 2 ≤ c →
          exec (.lineSample l high) s = becomes s (finish (withLine l { w with stable := n, countdown := some (c - 1) } s.part))) ∧
        (∀ c, w.countdown = some c → c ≤ 1 →
          exec (.lineSample l high) s = becomes s (finish (sourceEvent l (some .press)
            (afterReport st (.trigger l (some .press) .repeated (some true))
              (withLine l { w with stable := n, countdown := some (st.repeatInterval / 5) } s.part)))))) ∧
      (∀ q dir takes p, w.qualified = some q → q ≠ raw → st.stableCount ≤ w.stable + 1 →
        dir = (if raw = .active then Direction.press else .release) →
        takes = decide (st.edge = .both ∨ st.edge = .rising ∧ dir = .press ∨ st.edge = .falling ∧ dir = .release) →
        p = afterReport st (.trigger l (some dir) .change (some takes)) (withLine l
          { qualified := some raw, stable := 0
            countdown := if dir = .press ∧ st.edge = .rising ∧ st.repeatDelay ≠ 0 then some (st.repeatDelay / 5) else none } s.part) →
        exec (.lineSample l high) s = becomes s (finish (if takes = true then sourceEvent l (some dir) p else p))) ∧
      (w.countdown = none → exec (.repeatEvent l) s = becomes s (finish s.part)) ∧
      (w.countdown ≠ none → exec (.repeatEvent l) s = becomes s (finish (sourceEvent l (some .press)
        (afterReport st (.trigger l (some .press) .repeated (some true))
          (withLine l { w with countdown := some (st.repeatInterval / 5) } s.part))))))

/-- What a trigger source does with an event (R117, R118, R119, R163), and what each route action does (R120, R121). That a later NOTE carries the latest event's direction is the model's choice (log entry 14). -/
def Obligations.ASourceTakesItsEvent : Prop :=
  (∀ (p p1 : Blocks) (i : Nat) (dir : Option Direction),
    p1 = withSource i { pending := true, rearm := none, direction := dir } p →
    (p.house.alarmState ≠ .normal ∨ (tget p.trigger.sources i).rearm ≠ none → sourceEvent i dir p = p) ∧
    (p.house.alarmState = .normal → (tget p.trigger.sources i).rearm = none →
      ((tget p.store.settings.routes i).enabled = true → p.house.mode = .opened → sourceEvent i dir p = afterTaking i p1) ∧
      (i < 32 → (tget p.store.settings.lines i).wake = true → p.house.mode = .closed → p.house.wake.trigger = true →
        sourceEvent i dir p = afterOpening (.trigger i) p1) ∧
      ((tget p.store.settings.routes i).enabled = false ∨ p.house.mode = .closed →
        32 ≤ i ∨ (tget p.store.settings.lines i).wake = false ∨ p.house.mode = .opened ∨ p.house.wake.trigger = false →
        sourceEvent i dir p = p1))) ∧
  (∀ (p : Blocks) (i : Nat) (rt : RouteSettings),
    (rt.action = .note → routeAction i rt p = putNotice (.trigger i (tget p.trigger.sources i).direction .note none) p) ∧
    (∀ id again, rt.target = some id → (rt.action = .start ∧ again = false ∨ rt.action = .startRestart ∧ again = true) →
      (∀ k o q, startShow id (.trigger i) again p = (.accepted k o, q) → routeAction i rt p = q) ∧
      (∀ why step q, startShow id (.trigger i) again p = (.refused why step, q) →
        routeAction i rt p = afterRefusal rt (.startRefused (.trigger i) (some id) why step) q)) ∧
    (∀ n, rt.target = some n → rt.action = .startSet →
      ((tget p.store.settings.sets n : Option SetSettings) = none → routeAction i rt p = p) ∧
      (∀ st, (tget p.store.settings.sets n : Option SetSettings) = some st → routeAction i rt p = (startDefinedSet rt.report n st p).2)) ∧
    (∀ id, rt.target = some id → rt.action = .stop →
      (showOf p id = none → routeAction i rt p = afterRefusal rt (.startRefused (.trigger i) (some id) .noShow .check) p) ∧
      (showOf p id ≠ none → slotHolding p id = none → routeAction i rt p = p) ∧
      (∀ k, showOf p id ≠ none → slotHolding p id = some k → routeAction i rt p = endSlots [(k, .stopped)] p)) ∧
    (∀ id, rt.target = some id → rt.action = .release →
      (showOf p id = none → routeAction i rt p = afterRefusal rt (.startRefused (.trigger i) (some id) .noShow .check) p) ∧
      (showOf p id ≠ none → (∀ k r, slotHolding p id = some k → slotOf p k = some r → r.state ≠ .held) →
        routeAction i rt p = afterRefusal rt (.startRefused (.trigger i) (some id) .notHeld .check) p) ∧
      (∀ k r, showOf p id ≠ none → slotHolding p id = some k → slotOf p k = some r → r.state = .held → routeAction i rt p = afterHold k r p)))

/-! ### Levels and laws -/

/-- LEVEL_SAMPLE (R132 to R134): none while the settings load; the samples and the extremes; then, with a previous sample, the crossing with its flag, its notice and its trigger event, and the equal run with its flag and its notices; then the laws of the gallery, in ascending channel order. -/
def Obligations.AReadingCrossesAndSticks : Prop :=
  ∀ (s : State) (g r : Nat) (st : GallerySettings) (w w1 : GalleryWork), g < 16 →
    st = tget s.part.store.settings.galleries g → w = tget s.part.level.galleries g →
    w1 = { w with previous := w.sample, sample := some r, minimum := min w.minimum r, maximum := max w.maximum r } →
    (s.part.store.loading = true → exec (.levelSample g r) s = becomes s (finish s.part)) ∧
    (s.part.store.loading = false → w.sample = none →
      exec (.levelSample g r) s = becomes s (finish (readLaws g r (withGallery g w1 s.part)))) ∧
    (∀ prev, s.part.store.loading = false → w.sample = some prev →
      ∃ w2 p2 p3, exec (.levelSample g r) s = becomes s (finish (readLaws g r p3)) ∧ tget p2.level.galleries g = w2 ∧
        (st.high < r → prev ≤ st.high → w2 = { w1 with highFlag := true } ∧
          p2 = sourceEvent (32 + g) none (putNotice (.level .high g r) (withGallery g w2 s.part))) ∧
        (r ≤ st.high ∨ st.high < prev → r < st.low → st.low ≤ prev → w2 = { w1 with lowFlag := true } ∧
          p2 = sourceEvent (48 + g) none (putNotice (.level .low g r) (withGallery g w2 s.part))) ∧
        (r ≤ st.high ∨ st.high < prev → st.low ≤ r ∨ prev < st.low → w2 = w1 ∧ p2 = withGallery g w2 s.part) ∧
        (∀ run, r = prev → run = min 255 (w.equalRun + 1) →
          (st.stuckCount ≠ 0 → st.stuckCount ≤ run → w.runReported = false →
            p3 = putNotice (.level .stuck g r) (withGallery g { w2 with equalRun := run, stuckFlag := true, runReported := true } p2)) ∧
          (st.stuckCount = 0 ∨ run < st.stuckCount ∨ w.runReported = true → p3 = withGallery g { w2 with equalRun := run } p2)) ∧
        (r ≠ prev → p3 = withGallery g { w2 with equalRun := 0, runReported := false }
          (if w.runReported = true then putNotice (.level .moving g r) p2 else p2))) ∧
    (∀ p : Blocks, readLaws g r p = (List.range 128).foldl (fun q ch => match lawOn q ch with
      | none => q
      | some law => if law.gallery = g then readLaw ch r law q else q) p)

/-- The curve (R139), for a law as SET-LAW accepts it: the gain of the point a reading equals, of the end point beyond either end, and between two points the lower one's gain, or the straight line to the nearest whole number, a half going to the greater. -/
def Obligations.TheCurveGivesTheTarget : Prop :=
  ∀ (law : LawSettings) (r : Nat), LawAccepted law →
    (∀ a, law.curve[0]? = some a → r < a.level → targetGain law r = a.gain) ∧
    (∀ e, law.curve[4]? = some e → e.level < r → targetGain law r = e.gain) ∧
    (∀ (i : Nat) (q : CurvePoint), law.curve[i]? = some q → r = q.level → targetGain law r = q.gain) ∧
    (∀ (i : Nat) (a b : CurvePoint), law.curve[i]? = some a → law.curve[i + 1]? = some b → a.level < r → r < b.level →
      (law.interpolate = false → targetGain law r = a.gain) ∧
      (∀ width line : Int, law.interpolate = true → width = (b.level : Int) - a.level →
        line = (a.gain : Int) * width + ((b.gain : Int) - a.gain) * ((r : Int) - a.level) →
        2 * width * (targetGain law r : Int) ≤ 2 * line + width ∧ 2 * line + width < 2 * width * ((targetGain law r : Int) + 1)))

/-- A law at a reading (R140 to R142): frozen, its target alone is written; else its current gain is the target where it had none, the end point's gain at a jump, and otherwise a step nearer the target; and a TRIM with it is offered, at the class of the channel's top entry or AMBIENT, when it has moved far enough from the last one sent, the node is PRESENT, and no TRIM for the channel is outstanding. -/
def Obligations.ALawMovesAtAReading : Prop :=
  ∀ (p : Blocks) (ch r : Nat) (law : LawSettings) (w : LawWork) (g : GalleryWork) (st : GallerySettings),
    w = tget p.level.laws ch → g = tget p.level.galleries law.gallery → st = tget p.store.settings.galleries law.gallery →
    (p.house.alarmState ≠ .normal ∨ g.stuckFlag = true ∧ st.stuckCount ≠ 0 ∧ st.stuckCount ≤ g.equalRun →
      readLaw ch r law p = withLaw ch { w with target := some (targetGain law r), frozen := true } p) ∧
    (p.house.alarmState = .normal → g.stuckFlag = false ∨ st.stuckCount = 0 ∨ g.equalRun < st.stuckCount → LawAccepted law →
      ∃ c' q, q = withLaw ch { w with target := some (targetGain law r), current := some c', frozen := false } p ∧
        (w.current = none → c' = targetGain law r) ∧
        (∀ c first last, w.current = some c → law.curve[0]? = some first → law.curve[4]? = some last →
          (law.jumpHigh = true → last.level < r → c' = last.gain) ∧
          (law.jumpHigh = false ∨ r ≤ last.level →
            (law.jumpLow = true → r + law.hysteresis < first.level → c' = first.gain) ∧
            (law.jumpLow = false ∨ first.level ≤ r + law.hysteresis →
              (c < targetGain law r → c' = min (targetGain law r) (c + (law.upRate + 9) / 10)) ∧
              (targetGain law r < c → c' = max (targetGain law r) (c - (law.downRate + 9) / 10)) ∧
              (c = targetGain law r → c' = c)))) ∧
        (∀ e due, channelEntry p ch = some e →
          due = (w.lastSent = none ∨ ∃ n, w.lastSent = some n ∧ (n + 2 ≤ c' ∨ c' + 2 ≤ n ∨ c' = targetGain law r ∧ c' ≠ n)) →
          (due → nodePresent p e.node = true → trimOutstanding p ch = false →
            readLaw ch r law p = offer
              { node := e.node, nodeChannel := some e.nodeChannel, channel := some ch, kind := .trim c'
                cls := match topEntry p ch with
                  | none => .ambient
                  | some o => o.cls
                origin := none, cueIndex := none, owner := none, toggle := none, attempts := 0 } q) ∧
          (¬ due ∨ nodePresent p e.node = false ∨ trimOutstanding p ch = true → readLaw ch r law p = q)))

/-! ### The alarm line -/

/-- ALARM_LINE_SAMPLE (R164): none while the settings load; a sample of the qualified level ends the run, one that differs from those before it begins the run anew, and the fourth of a run is qualified; ASSERTED is then an alarm entry in NORMAL, with the orders of R165 and R166, and in ALARM-HELD a re-assertion, with those of R168: an override show that a slot still holds begins again there, RUNNING at cue 0 with origin ALARM, its last states absent, SHOW-STARTED put and its due cues fired (R48); CLEAR from ASSERTED in ALARM holds the alarm. The escalation timer is loaded at the entry and counts from the next tick instant on (log entry 33). A start with origin ALARM (R53), its claim granted, takes GO at once with no channel missing: no PREPARE is offered, on stacks that are empty as at an alarm entry among others. -/
def Obligations.TheAlarmLineIsQualified : Prop :=
  (∀ (s : State) (a : Bool) (n : Nat) (p : Blocks),
    n = (if s.part.house.run ≠ 0 ∧ s.part.house.runLevel ≠ a then 1 else s.part.house.run + 1) →
    p = { s.part with house := { s.part.house with qualified := some a, run := 0 } } →
    (s.part.store.loading = true → exec (.alarmLineSample a) s = becomes s (finish s.part)) ∧
    (s.part.store.loading = false →
      (s.part.house.qualified = some a →
        exec (.alarmLineSample a) s = becomes s (finish { s.part with house := { s.part.house with run := 0 } })) ∧
      (s.part.house.qualified ≠ some a → n < 4 →
        exec (.alarmLineSample a) s = becomes s (finish { s.part with house := { s.part.house with run := n, runLevel := a } })) ∧
      (s.part.house.qualified ≠ some a → 4 ≤ n →
        (a = true → s.part.house.alarmState = .normal → exec (.alarmLineSample a) s = becomes s (finish (alarmEntry p))) ∧
        (a = true → s.part.house.alarmState = .alarmHeld → exec (.alarmLineSample a) s = becomes s (finish (reassertion p))) ∧
        (a = false → s.part.house.qualified = some true → s.part.house.alarmState = .alarm → exec (.alarmLineSample a) s =
          becomes s (finish (putNotice (.alarm .held) { p with house := { p.house with alarmState := .alarmHeld } }))) ∧
        (a = true ∧ s.part.house.alarmState = .alarm ∨
            a = false ∧ (s.part.house.qualified = none ∨ s.part.house.alarmState ≠ .alarm) →
          exec (.alarmLineSample a) s = becomes s (finish p))))) ∧
  (∀ p : Blocks, ∃ q1 q2 q3, q1 = putNotice (.alarm .entered)
      { p with
        house := { p.house with alarmState := .alarm }
        link := { p.link with
          requests := []
          replies := p.link.replies ++ p.link.requests.map (fun q => .refused q.tag q.kind .overtaken) } } ∧
    SlotsFrame q1 q2 ∧ q2.bus = p.bus ∧ (∀ k, slotOf q2 k = none) ∧ (∀ ch, ownersOf q2 ch = []) ∧ q2.map.waitOrder = [] ∧ q2.runner.groups = [] ∧
    (q1.link.notices.length ≤ 16 → q2.link.notices = q1.link.notices ++ (List.range 16).filterMap (fun k => (slotOf p k).map (fun r =>
      .showEnded k r.showId r.origin .alarm r.step r.skipped))) ∧
    (∀ k r sh, slotOf p k = some r → showOf p r.showId = some sh →
      (tget q2.runner.rest r.showId : Option Timer) = if sh.rest = 0 then none else some { ticks := sh.rest * 100, fresh := true }) ∧
    q3 = overrideStart { offer hushTx { q2 with bus := { q2.bus with queue := [] } } with
      trigger := { p.trigger with sources := tmap (fun w => { w with pending := false, rearm := none }) p.trigger.sources } } ∧
    alarmEntry p = { q3 with house := { q3.house with acknowledged := false, escalation := some { ticks := p.store.settings.ackTime * 100, fresh := true } } }) ∧
  (∀ p : Blocks,
    (p.store.settings.overrideShow = none → overrideStart p = p) ∧
    (∀ id, p.store.settings.overrideShow = some id →
      (showOf p id = none → overrideStart p = putNotice (.startRefused .alarm (some id) .noShow .check) p) ∧
      (∀ sh, showOf p id = some sh →
        (sh.cls ≠ .override → overrideStart p = putNotice (.startRefused .alarm (some id) .badClass .check) p) ∧
        (sh.cls = .override → sh.cues = [] → overrideStart p = putNotice (.startRefused .alarm (some id) .emptyShow .check) p) ∧
        (sh.cls = .override → sh.cues ≠ [] → overrideStart p = (startShow id .alarm false p).2)))) ∧
  (∀ p : Blocks, ∃ q1 q2, q1 = offer hushTx
      { p with
        house := { p.house with alarmState := .alarm, acknowledged := false, escalation := some { ticks := p.store.settings.ackTime * 100, fresh := true } }
        bus := { p.bus with queue := [] } } ∧
    (∀ id k, p.store.settings.overrideShow = some id → slotHolding p id = some k → q2 = beginAgain k .alarm q1) ∧
    (∀ id k r sh, p.store.settings.overrideShow = some id → slotHolding p id = some k → slotOf p k = some r → showOf p id = some sh →
      q2 = begunAgain k .alarm r sh q1) ∧
    ((∀ id, p.store.settings.overrideShow = some id → slotHolding p id = none) → q2 = overrideStart q1) ∧
    reassertion p = putNotice (.alarm .reasserted) q2) ∧
  (∀ (p : Blocks) (id k : Nat) (sh : ShowRecord) (r0 : SlotRec), id ≤ 63 → showOf p id = some sh → sh.cues ≠ [] → slotHolding p id = none →
    k < 16 → slotOf p k = none → (∀ j < k, slotOf p j ≠ none) →
    (∀ ch ∈ sh.channels, ∀ e, topEntry p ch = some e → e.cls.rank < sh.cls.rank) →
    r0 = takenAs id sh .alarm →
    ∃ ends q, q = grant pendingScan k (setSlot k (some r0) (setForesight (.known ends) p)) ∧
      (∀ r, slotOf q k = some r →
        startShow id .alarm false p = (.accepted k .claimed, setForesight .idle (goSlot k (setSlot k (some { r with missing := [] }) q)))) ∧
      ((∀ ch, ownersOf p ch = []) → p.runner.groups = [] → p.runner.foresight = .idle → ∃ owners uid,
        (sh.channels.Nodup → (∀ ch ∈ sh.channels, ch < 128) → ∀ ch ∈ sh.channels, ∃ n, (tget owners ch : List StackEntry) =
          [{ cls := sh.cls, slot := k, showId := id, last := none, uid := n }]) ∧
        startShow id .alarm false p = (.accepted k .claimed, goSlot k (setSlot k (some { r0 with state := .priming, step := 1 })
          { p with map := { p.map with owners := owners, nextUid := uid } }))))

/-! ### The gallery bus -/

/-- A transaction offered to the queue (R90 to R93): refused for an ABSENT node unless it is a POLL or a HUSH, a cue then counted as skipped; else it stands behind every one of its own and of every higher class and ahead of every lower one; with 64 waiting it displaces the youngest of the lowest class, if that class is lower, and is dropped otherwise; the loss of a cue is reported; and a free bus takes the head at once (log entry 8): it leaves the queue, with its node's toggle, unless it is a HUSH, and as its first attempt, and goes under the bus settings of that moment; nothing goes while the settings load (R18, R94, R107). The queue is ordered by class, as every step keeps it. -/
def Obligations.ATransactionEntersByClass : Prop :=
  ∀ (p : Blocks) (t : Transaction), QueueFits p →
    (t.kind ≠ .poll → t.kind ≠ .hush → nodePresent p t.node = false →
      (∀ k r ci, t.origin = some k → t.cueIndex = some ci → slotOf p k = some r →
        offer t p = setSlot k (some { r with skipped := moreSkipped r.skipped }) p) ∧
      (t.origin = none ∨ t.cueIndex = none → offer t p = p)) ∧
    (t.kind = .poll ∨ t.kind = .hush ∨ nodePresent p t.node = true →
      (p.bus.queue.length < 64 → ∃ before after, p.bus.queue = before ++ after ∧
        (∀ x ∈ before, t.cls.rank ≤ x.cls.rank) ∧ (∀ x ∈ after, x.cls.rank < t.cls.rank) ∧
        offer t p = takeHead { p with bus := { p.bus with queue := before ++ t :: after } }) ∧
      (∀ front g, p.bus.queue = front ++ [g] → p.bus.queue.length = 64 →
        (g.cls.rank < t.cls.rank → ∃ before after, front = before ++ after ∧
          (∀ x ∈ before, t.cls.rank ≤ x.cls.rank) ∧ (∀ x ∈ after, x.cls.rank < t.cls.rank) ∧
          offer t p = takeHead (afterLoss g .queueFull { p with bus := { p.bus with queue := before ++ t :: after } })) ∧
        (t.cls.rank ≤ g.cls.rank → offer t p = takeHead (afterLoss t .queueFull p)))) ∧
    (∀ j, p.bus.job = some j → takeHead p = p) ∧
    (p.bus.job = none → p.store.loading = true ∨ p.bus.queue = [] → takeHead p = p) ∧
    (∀ x rest, p.bus.job = none → p.store.loading = false → p.bus.queue = x :: rest → takeHead p = { p with bus := { p.bus with
      queue := rest
      job := some { tx := { x with toggle := if x.kind = .hush then none else some (nodeRecord p x.node).toggle, attempts := 1 },
                    timeout := p.store.settings.replyTimeout, retries := p.store.settings.retryCount } } })

/-- NODE_REPLY, REPLY_TIMEOUT and HUSH_SENT (R27, R87, R95 to R98, R100, R102, R104): a good answer, a NAK, and every other end of an attempt, with the next attempt or the failure; the node's record after each; what each success is handed to; and a HUSH, which ends at the end of its sending alone. A READY takes its channel off the missing ones of a PRIMING slot that awaits that clip there, and the last makes the slot ready: GO, or in a group step 2 with its timer stopped (R50, R79). A node that returns is PRESENT with its notice, then the channels it serves are restored whose top entry's slot is RUNNING or HELD, and then their last sent gains are forgotten, each in ascending order (R104, R143). The bytes are those of R184: start byte, node, flags, a NAK's reason, check value; bits 6 to 2 of the flags are disregarded, and another length or reason is no reply (log entry 21); bytes with a wrong check value, or that do not begin with the start byte, are none (log entry 36), and the attempt fails; a node that falls has its transactions but for POLLs discarded, and each discarded cue counted as skipped (R102); a reply, a timeout or the end of a HUSH where the bus carries no such transaction changes nothing (log entry 22); the freed bus takes the head after the outcome has been handed on (log entry 8). -/
def Obligations.AnAttemptEnds : Prop :=
  (∀ (s : State) (bytes : List Byte),
    (s.part.bus.job = none → exec (.nodeReply bytes) s = becomes s (finish s.part) ∧ exec .replyTimeout s = becomes s (finish s.part) ∧
      exec .hushSent s = becomes s (finish s.part)) ∧
    (∀ j, s.part.bus.job = some j → j.tx.kind = .hush →
      exec (.nodeReply bytes) s = becomes s (finish s.part) ∧ exec .replyTimeout s = becomes s (finish s.part) ∧
      exec .hushSent s = becomes s (finish (takeHead { s.part with bus := { s.part.bus with job := none } }))) ∧
    (∀ j failed r, s.part.bus.job = some j → j.tx.kind ≠ .hush → r = nodeRecord s.part j.tx.node →
      (j.tx.attempts ≤ j.retries → failed = { s.part with bus := { s.part.bus with
        job := some { j with tx := { j.tx with attempts := j.tx.attempts + 1 } } } }) →
      (j.retries < j.tx.attempts → ∃ q1 q2,
        q1 = afterLoss j.tx .noAnswer (setNode j.tx.node { r with failures := min 3 (r.failures + 1) } s.part) ∧
        q2 = (if r.presence = .present ∧ 3 ≤ r.failures + 1 then nodeFalls j.tx.node q1 else q1) ∧
        failed = takeHead { q2 with bus := { q2.bus with job := none } }) →
      exec .hushSent s = becomes s (finish s.part) ∧ exec .replyTimeout s = becomes s (finish failed) ∧
      (parseReply bytes = none → exec (.nodeReply bytes) s = becomes s (finish failed)) ∧
      (∀ a, parseReply bytes = some a →
        (a.node ≠ j.tx.node ∨ j.tx.toggle ≠ some a.toggle → exec (.nodeReply bytes) s = becomes s (finish failed)) ∧
        (a.node = j.tx.node → j.tx.toggle = some a.toggle →
          (∀ why q, a.answer = .nak why →
            q = afterLoss j.tx (.refused why) (setNode j.tx.node
              { r with failures := 0, lastNak := some why, toggle := if j.tx.kind = .poll then r.toggle else !r.toggle } s.part) →
            exec (.nodeReply bytes) s = becomes s (finish (takeHead { q with bus := { q.bus with job := none } }))) ∧
          (a.answer = .ack ∨ a.answer = .ready ∨ a.answer = .status → j.tx.kind.goodAnswer ≠ some a.answer →
            exec (.nodeReply bytes) s = becomes s (finish failed)) ∧
          (∀ q, j.tx.kind.goodAnswer = some a.answer →
            q = handSuccess j.tx (decide (r.presence = .absent)) (setNode j.tx.node
              { r with failures := 0, lastNak := none, toggle := if j.tx.kind = .poll then false else !r.toggle } s.part) →
            exec (.nodeReply bytes) s = becomes s (finish (takeHead { q with bus := { q.bus with job := none } })))))) ) ∧
  (∀ (p : Blocks) (t : Transaction),
    (∀ ch uid ci wasAbsent, t.channel = some ch → t.owner = some uid → t.cueIndex = some ci →
      t.kind ≠ .poll → t.kind.isTrim = false → (∀ clip, t.kind ≠ .prepare clip) →
      handSuccess t wasAbsent p = setOwners ch ((ownersOf p ch).map (fun e => if e.uid = uid then
        { e with last := lastAfter t.kind (cueOffset p e.showId ci) e.last } else e)) p) ∧
    (∀ wasAbsent, t.cueIndex = none → t.kind ≠ .poll → t.kind.isTrim = false → (∀ clip, t.kind ≠ .prepare clip) →
      handSuccess t wasAbsent p = p) ∧
    (∀ k ch clip wasAbsent, t.kind = .prepare clip → t.origin = some k → t.channel = some ch →
      handSuccess t wasAbsent p = readySlot k ch clip p) ∧
    (∀ ch gain wasAbsent, t.kind = .trim gain → t.channel = some ch →
      (lawOn p ch = none → handSuccess t wasAbsent p = p) ∧
      (lawOn p ch ≠ none → handSuccess t wasAbsent p = withLaw ch { tget p.level.laws ch with lastSent := some gain } p)) ∧
    (t.kind = .poll → handSuccess t false p = p ∧ handSuccess t true p = nodeReturns t.node p)) ∧
  (∀ (offset : Nat) (last : Option LastState),
    (∀ clip lvl loop again start, lastAfter (.play clip lvl loop again start) offset last = some (.play clip lvl loop offset)) ∧
    (∀ n fade, lastAfter (.scene n fade) offset last = some (.scene n fade)) ∧
    (∀ lvl fade, lastAfter (.level lvl fade) offset last = some (.level lvl fade)) ∧
    (∀ d, lastAfter (.pulse d) offset last = last) ∧ lastAfter .stop offset last = none) ∧
  (∀ (p q : Blocks) (n : Nat), 1 ≤ n → n ≤ 32 →
    q = putNotice (.node .absent n) (setNode n { nodeRecord p n with presence := .absent } p) →
    ∃ p', nodeFalls n p = p' ∧ p'.bus.queue = p.bus.queue.filter (fun t => t.node ≠ n ∨ t.kind = .poll) ∧ p'.bus.nodes = q.bus.nodes ∧
      p'.bus.job = p.bus.job ∧ p'.link = q.link ∧ p'.map = p.map ∧ p'.store = p.store ∧
      (∀ k, (slotOf p' k).map SlotRec.lossless = (slotOf p k).map SlotRec.lossless) ∧
      (∀ k r, k < 16 → slotOf p k = some r → r.skipped ≤ 65535 → slotOf p' k = some { r with skipped := min 65535 (r.skipped +
        (p.bus.queue.filter (fun t => t.node = n ∧ t.kind ≠ .poll ∧ t.origin = some k ∧ t.cueIndex ≠ none)).length) })) ∧
  (∀ (node flags : Byte) (more check : List Byte),
    (check = crcBytes (node :: flags :: more) →
      (flags &&& 3 = 0 → more = [] →
        parseReply (0x5A#8 :: node :: flags :: more ++ check) = some { node := node.toNat, toggle := flags.getLsbD 7, answer := .ack }) ∧
      (flags &&& 3 = 1 → more = [] →
        parseReply (0x5A#8 :: node :: flags :: more ++ check) = some { node := node.toNat, toggle := flags.getLsbD 7, answer := .ready }) ∧
      (flags &&& 3 = 3 → more = [] →
        parseReply (0x5A#8 :: node :: flags :: more ++ check) = some { node := node.toNat, toggle := flags.getLsbD 7, answer := .status }) ∧
      (∀ b why, flags &&& 3 = 2 → more = [b] → [NakReason.noMedia, .busy, .badRequest][b.toNat]? = some why →
        parseReply (0x5A#8 :: node :: flags :: more ++ check) = some { node := node.toNat, toggle := flags.getLsbD 7, answer := .nak why }) ∧
      (flags &&& 3 ≠ 2 → more ≠ [] → parseReply (0x5A#8 :: node :: flags :: more ++ check) = none) ∧
      (flags &&& 3 = 2 → (∀ b, more = [b] → 2 < b.toNat) → parseReply (0x5A#8 :: node :: flags :: more ++ check) = none)) ∧
    (check.length = 2 → check ≠ crcBytes (node :: flags :: more) → parseReply (0x5A#8 :: node :: flags :: more ++ check) = none)) ∧
  (∀ bytes : List Byte, bytes.length < 5 ∨ bytes.head? ≠ some 0x5A#8 → parseReply bytes = none) ∧
  (∀ (p : Blocks) (k ch clip : Nat), (slotOf p k = none → readySlot k ch clip p = p) ∧
    ∀ r sh left, slotOf p k = some r → showOf p r.showId = some sh → left = r.missing.filter (fun c => c ≠ ch) →
      (r.state ≠ .priming ∨ ch ∉ r.missing ∨ (ch, clip) ∉ primeList p sh → readySlot k ch clip p = p) ∧
      (r.state = .priming → ch ∈ r.missing → (ch, clip) ∈ primeList p sh →
        (left ≠ [] ∨ r.step ≠ 1 → readySlot k ch clip p = setSlot k (some { r with missing := left }) p) ∧
        (left = [] → r.step = 1 → r.group = none → readySlot k ch clip p = goSlot k (setSlot k (some { r with missing := [] }) p)) ∧
        (∀ l, left = [] → r.step = 1 → r.group = some l → readySlot k ch clip p =
          considerGroup l (setSlot k (some { r with missing := [], step := 2, primeTimer := none }) p)))) ∧
  (∀ (p : Blocks) (n : Nat) (chs : List Nat),
    chs = (List.range 128).filter (fun ch => (channelEntry p ch).any (fun e => e.node = n)) →
    ∃ p1 p2, p1 = putNotice (.node .present n) (setNode n { nodeRecord p n with presence := .present } p) ∧
      p2 = chs.foldl (fun q ch => match topEntry q ch with
        | none => q
        | some e => if (slotOf q e.slot).any (fun r => r.state = .running ∨ r.state = .held) = true then restoreChannel e.slot ch q else q) p1 ∧
      nodeReturns n p = chs.foldl (fun q ch => withLaw ch { tget q.level.laws ch with lastSent := none } q) p2)

/-! ### Preemption and regain -/

/-- A slot that a claim covers (R62 to R64, R82), under the class of the slot above; and a SUSPENDED slot that regains its channels (R34, R39, R65). A removal (R32 to R35): with no entry to take off, the launch groups alone are considered; else the entries go, the groups are considered (log entry 18), each channel whose top entry went is offered a STOP at that entry's class, in ascending order, unless its new top can regain, each slot that is then top everywhere regains, in ascending order, and the wait order is scanned: the oldest slot whose claim succeeds leaves it and is granted its claim, and the scan begins again, until none succeeds. -/
def Obligations.PreemptionAndRegain : Prop :=
  (∀ (p : Blocks) (k above : Nat) (cls : ShowClass) (r : SlotRec) (sh : ShowRecord), slotOf p k = some r → showOf p r.showId = some sh →
    (∀ r', sh.preempt ≠ .yield →
      ((r.state = .running ∨ r.state = .held) → r' = { r with state := .suspended, heldWhenSuspended := decide (r.state = .held) }) →
      (r.state = .priming → r' = { r with state := .suspended, step := 1, primeTimer := none, missing := [], heldWhenSuspended := false }) →
      (r.state = .running ∨ r.state = .held ∨ r.state = .priming) →
      preemptSlot above cls k p = putNotice (.showSuspended k r.showId above r'.step (decide (r.state = .held)))
        (sh.channels.foldl (fun q ch => offerChannel ch .pause cls none none none q) (leaveGroup k (setSlot k (some r') p)))) ∧
    (sh.preempt = .yield → ∃ q, q = sh.channels.foldl (fun q ch => offerChannel ch .stop cls none none none q) p ∧
      preemptSlot above cls k p = finishSlot k .yielded q) ∧
    (r.state ≠ .suspended ∨ topEverywhere p k = false → regainIfTop k p = p) ∧
    (r.state = .suspended → topEverywhere p k = true →
      (r.step = 3 → sh.preempt = .resume →
        regainIfTop k p = sh.channels.foldl (fun q ch => restoreChannel k ch q)
          (putNotice (.showResumed k r.showId r.late r.heldWhenSuspended false) (setSlot k (some
            { r with state := if r.heldWhenSuspended then .held else .running, group := none, began := true }) p))) ∧
      (∀ late, r.step ≠ 3 ∨ sh.preempt ≠ .resume → late = (r.late || decide (r.step = 3)) →
        regainIfTop k p = enterPriming k (setSlot k (some
          { r with
            state := .priming, step := 1, clock := 0, pointer := 0, deadline := none, heldWhenSuspended := false
            repeats := if sh.plays = 0 then none else some (sh.plays - 1)
            group := none, late := late })
          (putNotice (.showResumed k r.showId late false true) p)))) ∧
    (∀ ch, (∀ e, entryOn p ch k = some e → e.last = none) → restoreChannel k ch p = p) ∧
    (∀ ch e last, entryOn p ch k = some e → e.last = some last →
      restoreChannel k ch p = offerChannel ch (match last with
        | .play clip lvl loop offset => .play clip lvl loop true (r.clock - offset)
        | .scene n _ => .scene n 0
        | .level lvl _ => .level lvl 0) r.cls (some k) none none p)) ∧
  (∀ (p : Blocks) (ks : List Nat),
    ((∀ ch < 128, ∀ e ∈ ownersOf p ch, e.slot ∉ ks) → ∀ rescan, removal rescan ks p = settleGroups p) ∧
    ((∃ ch < 128, ∃ e ∈ ownersOf p ch, e.slot ∈ ks) → ∃ (exposed : List (Nat × ShowClass)) (q1 q2 q3 : Blocks),
      (exposed.map (fun c => c.1)).Pairwise (· < ·) ∧
      (∀ ch cls, (ch, cls) ∈ exposed ↔ ∃ e, topEntry p ch = some e ∧ e.slot ∈ ks ∧ e.cls = cls) ∧
      q1 = settleGroups { p with map := { p.map with owners := tmap (fun es => es.filter (fun e => e.slot ∉ ks)) p.map.owners } } ∧
      q2 = exposed.foldl (fun q c =>
        if (topEntry q c.1).any (fun e => topEverywhere q e.slot) = true then q else offerChannel c.1 .stop c.2 none none none q) q1 ∧
      q3 = (List.range 16).foldl (fun q k => regainIfTop k q) q2 ∧
      ∀ rescan, removal rescan ks p = rescan q3)) ∧
  (∀ (p : Blocks) (k : Nat), topEverywhere p k = true ↔ ∃ r sh, slotOf p k = some r ∧ showOf p r.showId = some sh ∧
    ∀ ch ∈ sh.channels, ∃ e, topEntry p ch = some e ∧ e.slot = k) ∧
  (∀ (p : Blocks) (claims : Nat → Prop),
    (∀ k, claims k ↔ ∃ r sh, slotOf p k = some r ∧ showOf p r.showId = some sh ∧
      ∀ ch ∈ sh.channels, ∀ e, topEntry p ch = some e → e.cls.rank < r.cls.rank) →
    ((∀ k ∈ p.map.waitOrder, ¬ claims k) → pendingScan p = p) ∧
    (∀ older k younger r, p.map.waitOrder = older ++ k :: younger → (∀ j ∈ older, ¬ claims j) → claims k → slotOf p k = some r →
      pendingScan p = pendingScan (afterClaim pendingScan k r.showId r.origin
        (grant pendingScan k { p with map := { p.map with waitOrder := p.map.waitOrder.filter (fun j => j ≠ k) } }))))

/-! ### What every step keeps -/

/-- Every step keeps the transaction queue ordered by class and within 64 (R90), consecutive failures within 3 (R101), the notices within 32 (R178), the request queue within 4 and the replies made and to come within 13 (R175, R176); and that no ending is foreseen between actions, the model's own field (log entry 18). -/
def Obligations.EveryStepKeepsTheQueues : Prop :=
  ∀ s t : State, step s = .next t →
    (QueueFits s.part → QueueFits t.part) ∧ (FailuresFit s.part → FailuresFit t.part) ∧
    (NoticesFit s.part → NoticesFit t.part) ∧ (LinkFits s.part → LinkFits t.part) ∧
    (s.part.runner.foresight = .idle → t.part.runner.foresight = .idle)

/-- Every step keeps every owner stack strictly increasing in class (R24), with the stored shows' channel lists distinct (R2) in working memory, in both image areas and in a save's capture (R15); and keeps the note on an area that holds an image, which no save is writing (R15, R16), and that no save executes while the settings load, for a load begins without one and no request is taken while it runs (R16, R18). -/
def Obligations.EveryStepKeepsTheStacks : Prop :=
  ∀ s t : State, step s = .next t →
    (StoreDistinct s.part.store → StacksIncrease s.part → StoreDistinct t.part.store ∧ StacksIncrease t.part) ∧
    (LoadsAlone s.part.store → NoteHolds s.part.store → NoteHolds t.part.store) ∧
    (LoadsAlone s.part.store → LoadsAlone t.part.store)

/-- Every step keeps every source with a set pending flag at an idle rearm timer (R118), and every pending flag clear under alarm (R124). -/
def Obligations.EveryStepKeepsTheSources : Prop :=
  ∀ s t : State, step s = .next t → PendingIsArmed s.part → AlarmClearsPending s.part → PendingIsArmed t.part ∧ AlarmClearsPending t.part

/-- The state after reset meets every condition that every step keeps; those on the image areas and the note rest on the blank areas and the absent note of State.reset, the model's choice (log entry 2). -/
def Obligations.ResetMeetsTheInvariants : Prop :=
  QueueFits State.reset.part ∧ FailuresFit State.reset.part ∧ NoticesFit State.reset.part ∧ LinkFits State.reset.part ∧
    StoreDistinct State.reset.part.store ∧ StacksIncrease State.reset.part ∧ NoteHolds State.reset.part.store ∧ LoadsAlone State.reset.part.store ∧
    PendingIsArmed State.reset.part ∧ AlarmClearsPending State.reset.part ∧ State.reset.part.runner.foresight = .idle

end
end

