-- ==== Sys2Proof/Laws/State.lean ====
section
/-! SUPPORT. What each update of the part leaves and what it writes: one lemma per block, and one per field of the block it updates, all by rfl. -/

namespace Sys2Proof.Machine

/-! ### setSlot -/

@[simp] theorem setSlot_store (k : Nat) (r : Option SlotRec) (p : Blocks) : (setSlot k r p).store = p.store := rfl
@[simp] theorem setSlot_map (k : Nat) (r : Option SlotRec) (p : Blocks) : (setSlot k r p).map = p.map := rfl
@[simp] theorem setSlot_bus (k : Nat) (r : Option SlotRec) (p : Blocks) : (setSlot k r p).bus = p.bus := rfl
@[simp] theorem setSlot_trigger (k : Nat) (r : Option SlotRec) (p : Blocks) : (setSlot k r p).trigger = p.trigger := rfl
@[simp] theorem setSlot_level (k : Nat) (r : Option SlotRec) (p : Blocks) : (setSlot k r p).level = p.level := rfl
@[simp] theorem setSlot_time (k : Nat) (r : Option SlotRec) (p : Blocks) : (setSlot k r p).time = p.time := rfl
@[simp] theorem setSlot_house (k : Nat) (r : Option SlotRec) (p : Blocks) : (setSlot k r p).house = p.house := rfl
@[simp] theorem setSlot_link (k : Nat) (r : Option SlotRec) (p : Blocks) : (setSlot k r p).link = p.link := rfl
@[simp] theorem setSlot_slots (k : Nat) (r : Option SlotRec) (p : Blocks) : (setSlot k r p).runner.slots = tset p.runner.slots k r := rfl
@[simp] theorem setSlot_rest (k : Nat) (r : Option SlotRec) (p : Blocks) : (setSlot k r p).runner.rest = p.runner.rest := rfl
@[simp] theorem setSlot_groups (k : Nat) (r : Option SlotRec) (p : Blocks) : (setSlot k r p).runner.groups = p.runner.groups := rfl
@[simp] theorem setSlot_foresight (k : Nat) (r : Option SlotRec) (p : Blocks) : (setSlot k r p).runner.foresight = p.runner.foresight := rfl

/-! ### setGroups -/

@[simp] theorem setGroups_store (gs : List LaunchGroup) (p : Blocks) : (setGroups gs p).store = p.store := rfl
@[simp] theorem setGroups_map (gs : List LaunchGroup) (p : Blocks) : (setGroups gs p).map = p.map := rfl
@[simp] theorem setGroups_bus (gs : List LaunchGroup) (p : Blocks) : (setGroups gs p).bus = p.bus := rfl
@[simp] theorem setGroups_trigger (gs : List LaunchGroup) (p : Blocks) : (setGroups gs p).trigger = p.trigger := rfl
@[simp] theorem setGroups_level (gs : List LaunchGroup) (p : Blocks) : (setGroups gs p).level = p.level := rfl
@[simp] theorem setGroups_time (gs : List LaunchGroup) (p : Blocks) : (setGroups gs p).time = p.time := rfl
@[simp] theorem setGroups_house (gs : List LaunchGroup) (p : Blocks) : (setGroups gs p).house = p.house := rfl
@[simp] theorem setGroups_link (gs : List LaunchGroup) (p : Blocks) : (setGroups gs p).link = p.link := rfl
@[simp] theorem setGroups_slots (gs : List LaunchGroup) (p : Blocks) : (setGroups gs p).runner.slots = p.runner.slots := rfl
@[simp] theorem setGroups_rest (gs : List LaunchGroup) (p : Blocks) : (setGroups gs p).runner.rest = p.runner.rest := rfl
@[simp] theorem setGroups_groups (gs : List LaunchGroup) (p : Blocks) : (setGroups gs p).runner.groups = gs := rfl
@[simp] theorem setGroups_foresight (gs : List LaunchGroup) (p : Blocks) : (setGroups gs p).runner.foresight = p.runner.foresight := rfl

/-! ### setForesight -/

@[simp] theorem setForesight_store (f : Foresight) (p : Blocks) : (setForesight f p).store = p.store := rfl
@[simp] theorem setForesight_map (f : Foresight) (p : Blocks) : (setForesight f p).map = p.map := rfl
@[simp] theorem setForesight_bus (f : Foresight) (p : Blocks) : (setForesight f p).bus = p.bus := rfl
@[simp] theorem setForesight_trigger (f : Foresight) (p : Blocks) : (setForesight f p).trigger = p.trigger := rfl
@[simp] theorem setForesight_level (f : Foresight) (p : Blocks) : (setForesight f p).level = p.level := rfl
@[simp] theorem setForesight_time (f : Foresight) (p : Blocks) : (setForesight f p).time = p.time := rfl
@[simp] theorem setForesight_house (f : Foresight) (p : Blocks) : (setForesight f p).house = p.house := rfl
@[simp] theorem setForesight_link (f : Foresight) (p : Blocks) : (setForesight f p).link = p.link := rfl
@[simp] theorem setForesight_slots (f : Foresight) (p : Blocks) : (setForesight f p).runner.slots = p.runner.slots := rfl
@[simp] theorem setForesight_rest (f : Foresight) (p : Blocks) : (setForesight f p).runner.rest = p.runner.rest := rfl
@[simp] theorem setForesight_groups (f : Foresight) (p : Blocks) : (setForesight f p).runner.groups = p.runner.groups := rfl
@[simp] theorem setForesight_foresight (f : Foresight) (p : Blocks) : (setForesight f p).runner.foresight = f := rfl

/-! ### loadRest -/

@[simp] theorem loadRest_store (id s : Nat) (p : Blocks) : (loadRest id s p).store = p.store := rfl
@[simp] theorem loadRest_map (id s : Nat) (p : Blocks) : (loadRest id s p).map = p.map := rfl
@[simp] theorem loadRest_bus (id s : Nat) (p : Blocks) : (loadRest id s p).bus = p.bus := rfl
@[simp] theorem loadRest_trigger (id s : Nat) (p : Blocks) : (loadRest id s p).trigger = p.trigger := rfl
@[simp] theorem loadRest_level (id s : Nat) (p : Blocks) : (loadRest id s p).level = p.level := rfl
@[simp] theorem loadRest_time (id s : Nat) (p : Blocks) : (loadRest id s p).time = p.time := rfl
@[simp] theorem loadRest_house (id s : Nat) (p : Blocks) : (loadRest id s p).house = p.house := rfl
@[simp] theorem loadRest_link (id s : Nat) (p : Blocks) : (loadRest id s p).link = p.link := rfl
@[simp] theorem loadRest_slots (id s : Nat) (p : Blocks) : (loadRest id s p).runner.slots = p.runner.slots := rfl
@[simp] theorem loadRest_rest (id s : Nat) (p : Blocks) : (loadRest id s p).runner.rest = tset p.runner.rest id (loadTimer s) := rfl
@[simp] theorem loadRest_groups (id s : Nat) (p : Blocks) : (loadRest id s p).runner.groups = p.runner.groups := rfl
@[simp] theorem loadRest_foresight (id s : Nat) (p : Blocks) : (loadRest id s p).runner.foresight = p.runner.foresight := rfl

/-! ### setOwners -/

@[simp] theorem setOwners_store (ch : Nat) (es : List StackEntry) (p : Blocks) : (setOwners ch es p).store = p.store := rfl
@[simp] theorem setOwners_runner (ch : Nat) (es : List StackEntry) (p : Blocks) : (setOwners ch es p).runner = p.runner := rfl
@[simp] theorem setOwners_bus (ch : Nat) (es : List StackEntry) (p : Blocks) : (setOwners ch es p).bus = p.bus := rfl
@[simp] theorem setOwners_trigger (ch : Nat) (es : List StackEntry) (p : Blocks) : (setOwners ch es p).trigger = p.trigger := rfl
@[simp] theorem setOwners_level (ch : Nat) (es : List StackEntry) (p : Blocks) : (setOwners ch es p).level = p.level := rfl
@[simp] theorem setOwners_time (ch : Nat) (es : List StackEntry) (p : Blocks) : (setOwners ch es p).time = p.time := rfl
@[simp] theorem setOwners_house (ch : Nat) (es : List StackEntry) (p : Blocks) : (setOwners ch es p).house = p.house := rfl
@[simp] theorem setOwners_link (ch : Nat) (es : List StackEntry) (p : Blocks) : (setOwners ch es p).link = p.link := rfl
@[simp] theorem setOwners_owners (ch : Nat) (es : List StackEntry) (p : Blocks) : (setOwners ch es p).map.owners = tset p.map.owners ch es := rfl
@[simp] theorem setOwners_waitOrder (ch : Nat) (es : List StackEntry) (p : Blocks) : (setOwners ch es p).map.waitOrder = p.map.waitOrder := rfl
@[simp] theorem setOwners_waitCounter (ch : Nat) (es : List StackEntry) (p : Blocks) : (setOwners ch es p).map.waitCounter = p.map.waitCounter := rfl
@[simp] theorem setOwners_nextUid (ch : Nat) (es : List StackEntry) (p : Blocks) : (setOwners ch es p).map.nextUid = p.map.nextUid := rfl

/-! ### leaveWait -/

@[simp] theorem leaveWait_store (k : Nat) (p : Blocks) : (leaveWait k p).store = p.store := rfl
@[simp] theorem leaveWait_runner (k : Nat) (p : Blocks) : (leaveWait k p).runner = p.runner := rfl
@[simp] theorem leaveWait_bus (k : Nat) (p : Blocks) : (leaveWait k p).bus = p.bus := rfl
@[simp] theorem leaveWait_trigger (k : Nat) (p : Blocks) : (leaveWait k p).trigger = p.trigger := rfl
@[simp] theorem leaveWait_level (k : Nat) (p : Blocks) : (leaveWait k p).level = p.level := rfl
@[simp] theorem leaveWait_time (k : Nat) (p : Blocks) : (leaveWait k p).time = p.time := rfl
@[simp] theorem leaveWait_house (k : Nat) (p : Blocks) : (leaveWait k p).house = p.house := rfl
@[simp] theorem leaveWait_link (k : Nat) (p : Blocks) : (leaveWait k p).link = p.link := rfl
@[simp] theorem leaveWait_owners (k : Nat) (p : Blocks) : (leaveWait k p).map.owners = p.map.owners := rfl
@[simp] theorem leaveWait_waitOrder (k : Nat) (p : Blocks) : (leaveWait k p).map.waitOrder = p.map.waitOrder.filter (fun j => decide (j ≠ k)) := rfl
@[simp] theorem leaveWait_waitCounter (k : Nat) (p : Blocks) : (leaveWait k p).map.waitCounter = p.map.waitCounter := rfl
@[simp] theorem leaveWait_nextUid (k : Nat) (p : Blocks) : (leaveWait k p).map.nextUid = p.map.nextUid := rfl

/-! ### takeOff -/

@[simp] theorem takeOff_store (ks : List Nat) (p : Blocks) : (takeOff ks p).store = p.store := rfl
@[simp] theorem takeOff_runner (ks : List Nat) (p : Blocks) : (takeOff ks p).runner = p.runner := rfl
@[simp] theorem takeOff_bus (ks : List Nat) (p : Blocks) : (takeOff ks p).bus = p.bus := rfl
@[simp] theorem takeOff_trigger (ks : List Nat) (p : Blocks) : (takeOff ks p).trigger = p.trigger := rfl
@[simp] theorem takeOff_level (ks : List Nat) (p : Blocks) : (takeOff ks p).level = p.level := rfl
@[simp] theorem takeOff_time (ks : List Nat) (p : Blocks) : (takeOff ks p).time = p.time := rfl
@[simp] theorem takeOff_house (ks : List Nat) (p : Blocks) : (takeOff ks p).house = p.house := rfl
@[simp] theorem takeOff_link (ks : List Nat) (p : Blocks) : (takeOff ks p).link = p.link := rfl
@[simp] theorem takeOff_owners (ks : List Nat) (p : Blocks) : (takeOff ks p).map.owners = tmap (fun es => es.filter (fun e => !ks.contains e.slot)) p.map.owners := rfl
@[simp] theorem takeOff_waitOrder (ks : List Nat) (p : Blocks) : (takeOff ks p).map.waitOrder = p.map.waitOrder := rfl
@[simp] theorem takeOff_waitCounter (ks : List Nat) (p : Blocks) : (takeOff ks p).map.waitCounter = p.map.waitCounter := rfl
@[simp] theorem takeOff_nextUid (ks : List Nat) (p : Blocks) : (takeOff ks p).map.nextUid = p.map.nextUid := rfl

/-! ### clearLast -/

@[simp] theorem clearLast_store (k : Nat) (p : Blocks) : (clearLast k p).store = p.store := rfl
@[simp] theorem clearLast_runner (k : Nat) (p : Blocks) : (clearLast k p).runner = p.runner := rfl
@[simp] theorem clearLast_bus (k : Nat) (p : Blocks) : (clearLast k p).bus = p.bus := rfl
@[simp] theorem clearLast_trigger (k : Nat) (p : Blocks) : (clearLast k p).trigger = p.trigger := rfl
@[simp] theorem clearLast_level (k : Nat) (p : Blocks) : (clearLast k p).level = p.level := rfl
@[simp] theorem clearLast_time (k : Nat) (p : Blocks) : (clearLast k p).time = p.time := rfl
@[simp] theorem clearLast_house (k : Nat) (p : Blocks) : (clearLast k p).house = p.house := rfl
@[simp] theorem clearLast_link (k : Nat) (p : Blocks) : (clearLast k p).link = p.link := rfl
@[simp] theorem clearLast_owners (k : Nat) (p : Blocks) : (clearLast k p).map.owners = tmap (fun es => es.map (fun e => if e.slot = k then { e with last := none } else e)) p.map.owners := rfl
@[simp] theorem clearLast_waitOrder (k : Nat) (p : Blocks) : (clearLast k p).map.waitOrder = p.map.waitOrder := rfl
@[simp] theorem clearLast_waitCounter (k : Nat) (p : Blocks) : (clearLast k p).map.waitCounter = p.map.waitCounter := rfl
@[simp] theorem clearLast_nextUid (k : Nat) (p : Blocks) : (clearLast k p).map.nextUid = p.map.nextUid := rfl

/-! ### setSettings -/

@[simp] theorem setSettings_map (st : Settings) (p : Blocks) : (setSettings st p).map = p.map := rfl
@[simp] theorem setSettings_runner (st : Settings) (p : Blocks) : (setSettings st p).runner = p.runner := rfl
@[simp] theorem setSettings_bus (st : Settings) (p : Blocks) : (setSettings st p).bus = p.bus := rfl
@[simp] theorem setSettings_trigger (st : Settings) (p : Blocks) : (setSettings st p).trigger = p.trigger := rfl
@[simp] theorem setSettings_level (st : Settings) (p : Blocks) : (setSettings st p).level = p.level := rfl
@[simp] theorem setSettings_time (st : Settings) (p : Blocks) : (setSettings st p).time = p.time := rfl
@[simp] theorem setSettings_house (st : Settings) (p : Blocks) : (setSettings st p).house = p.house := rfl
@[simp] theorem setSettings_link (st : Settings) (p : Blocks) : (setSettings st p).link = p.link := rfl
@[simp] theorem setSettings_settings (st : Settings) (p : Blocks) : (setSettings st p).store.settings = st := rfl
@[simp] theorem setSettings_areaA (st : Settings) (p : Blocks) : (setSettings st p).store.areaA = p.store.areaA := rfl
@[simp] theorem setSettings_areaB (st : Settings) (p : Blocks) : (setSettings st p).store.areaB = p.store.areaB := rfl
@[simp] theorem setSettings_note (st : Settings) (p : Blocks) : (setSettings st p).store.note = p.store.note := rfl
@[simp] theorem setSettings_save (st : Settings) (p : Blocks) : (setSettings st p).store.save = p.store.save := rfl
@[simp] theorem setSettings_loading (st : Settings) (p : Blocks) : (setSettings st p).store.loading = p.store.loading := rfl

/-! ### emptyQueue -/

@[simp] theorem emptyQueue_store (p : Blocks) : (emptyQueue p).store = p.store := rfl
@[simp] theorem emptyQueue_map (p : Blocks) : (emptyQueue p).map = p.map := rfl
@[simp] theorem emptyQueue_runner (p : Blocks) : (emptyQueue p).runner = p.runner := rfl
@[simp] theorem emptyQueue_trigger (p : Blocks) : (emptyQueue p).trigger = p.trigger := rfl
@[simp] theorem emptyQueue_level (p : Blocks) : (emptyQueue p).level = p.level := rfl
@[simp] theorem emptyQueue_time (p : Blocks) : (emptyQueue p).time = p.time := rfl
@[simp] theorem emptyQueue_house (p : Blocks) : (emptyQueue p).house = p.house := rfl
@[simp] theorem emptyQueue_link (p : Blocks) : (emptyQueue p).link = p.link := rfl
@[simp] theorem emptyQueue_queue (p : Blocks) : (emptyQueue p).bus.queue = [] := rfl
@[simp] theorem emptyQueue_job (p : Blocks) : (emptyQueue p).bus.job = p.bus.job := rfl
@[simp] theorem emptyQueue_nodes (p : Blocks) : (emptyQueue p).bus.nodes = p.bus.nodes := rfl
@[simp] theorem emptyQueue_pollTicks (p : Blocks) : (emptyQueue p).bus.pollTicks = p.bus.pollTicks := rfl

/-! ### putReply -/

@[simp] theorem putReply_store (r : Reply) (p : Blocks) : (putReply r p).store = p.store := rfl
@[simp] theorem putReply_map (r : Reply) (p : Blocks) : (putReply r p).map = p.map := rfl
@[simp] theorem putReply_runner (r : Reply) (p : Blocks) : (putReply r p).runner = p.runner := rfl
@[simp] theorem putReply_bus (r : Reply) (p : Blocks) : (putReply r p).bus = p.bus := rfl
@[simp] theorem putReply_trigger (r : Reply) (p : Blocks) : (putReply r p).trigger = p.trigger := rfl
@[simp] theorem putReply_level (r : Reply) (p : Blocks) : (putReply r p).level = p.level := rfl
@[simp] theorem putReply_time (r : Reply) (p : Blocks) : (putReply r p).time = p.time := rfl
@[simp] theorem putReply_house (r : Reply) (p : Blocks) : (putReply r p).house = p.house := rfl
@[simp] theorem putReply_assembler (r : Reply) (p : Blocks) : (putReply r p).link.assembler = p.link.assembler := rfl
@[simp] theorem putReply_requests (r : Reply) (p : Blocks) : (putReply r p).link.requests = p.link.requests := rfl
@[simp] theorem putReply_replies (r : Reply) (p : Blocks) : (putReply r p).link.replies = p.link.replies ++ [r] := rfl
@[simp] theorem putReply_notices (r : Reply) (p : Blocks) : (putReply r p).link.notices = p.link.notices := rfl
@[simp] theorem putReply_transmitting (r : Reply) (p : Blocks) : (putReply r p).link.transmitting = p.link.transmitting := rfl
@[simp] theorem putReply_lost (r : Reply) (p : Blocks) : (putReply r p).link.lost = p.link.lost := rfl
@[simp] theorem putReply_overrun (r : Reply) (p : Blocks) : (putReply r p).link.overrun = p.link.overrun := rfl
@[simp] theorem putReply_freeCount (r : Reply) (p : Blocks) : (putReply r p).link.freeCount = p.link.freeCount := rfl

/-! ### setAssembler -/

@[simp] theorem setAssembler_store (a : Assembler) (p : Blocks) : (setAssembler a p).store = p.store := rfl
@[simp] theorem setAssembler_map (a : Assembler) (p : Blocks) : (setAssembler a p).map = p.map := rfl
@[simp] theorem setAssembler_runner (a : Assembler) (p : Blocks) : (setAssembler a p).runner = p.runner := rfl
@[simp] theorem setAssembler_bus (a : Assembler) (p : Blocks) : (setAssembler a p).bus = p.bus := rfl
@[simp] theorem setAssembler_trigger (a : Assembler) (p : Blocks) : (setAssembler a p).trigger = p.trigger := rfl
@[simp] theorem setAssembler_level (a : Assembler) (p : Blocks) : (setAssembler a p).level = p.level := rfl
@[simp] theorem setAssembler_time (a : Assembler) (p : Blocks) : (setAssembler a p).time = p.time := rfl
@[simp] theorem setAssembler_house (a : Assembler) (p : Blocks) : (setAssembler a p).house = p.house := rfl
@[simp] theorem setAssembler_assembler (a : Assembler) (p : Blocks) : (setAssembler a p).link.assembler = a := rfl
@[simp] theorem setAssembler_requests (a : Assembler) (p : Blocks) : (setAssembler a p).link.requests = p.link.requests := rfl
@[simp] theorem setAssembler_replies (a : Assembler) (p : Blocks) : (setAssembler a p).link.replies = p.link.replies := rfl
@[simp] theorem setAssembler_notices (a : Assembler) (p : Blocks) : (setAssembler a p).link.notices = p.link.notices := rfl
@[simp] theorem setAssembler_transmitting (a : Assembler) (p : Blocks) : (setAssembler a p).link.transmitting = p.link.transmitting := rfl
@[simp] theorem setAssembler_lost (a : Assembler) (p : Blocks) : (setAssembler a p).link.lost = p.link.lost := rfl
@[simp] theorem setAssembler_overrun (a : Assembler) (p : Blocks) : (setAssembler a p).link.overrun = p.link.overrun := rfl
@[simp] theorem setAssembler_freeCount (a : Assembler) (p : Blocks) : (setAssembler a p).link.freeCount = p.link.freeCount := rfl

/-! ### overrunNow -/

@[simp] theorem overrunNow_store (p : Blocks) : (overrunNow p).store = p.store := rfl
@[simp] theorem overrunNow_map (p : Blocks) : (overrunNow p).map = p.map := rfl
@[simp] theorem overrunNow_runner (p : Blocks) : (overrunNow p).runner = p.runner := rfl
@[simp] theorem overrunNow_bus (p : Blocks) : (overrunNow p).bus = p.bus := rfl
@[simp] theorem overrunNow_trigger (p : Blocks) : (overrunNow p).trigger = p.trigger := rfl
@[simp] theorem overrunNow_level (p : Blocks) : (overrunNow p).level = p.level := rfl
@[simp] theorem overrunNow_time (p : Blocks) : (overrunNow p).time = p.time := rfl
@[simp] theorem overrunNow_house (p : Blocks) : (overrunNow p).house = p.house := rfl
@[simp] theorem overrunNow_assembler (p : Blocks) : (overrunNow p).link.assembler = p.link.assembler := rfl
@[simp] theorem overrunNow_requests (p : Blocks) : (overrunNow p).link.requests = p.link.requests := rfl
@[simp] theorem overrunNow_replies (p : Blocks) : (overrunNow p).link.replies = p.link.replies := rfl
@[simp] theorem overrunNow_notices (p : Blocks) : (overrunNow p).link.notices = p.link.notices := rfl
@[simp] theorem overrunNow_transmitting (p : Blocks) : (overrunNow p).link.transmitting = p.link.transmitting := rfl
@[simp] theorem overrunNow_lost (p : Blocks) : (overrunNow p).link.lost = p.link.lost := rfl
@[simp] theorem overrunNow_overrun (p : Blocks) : (overrunNow p).link.overrun = true := rfl
@[simp] theorem overrunNow_freeCount (p : Blocks) : (overrunNow p).link.freeCount = p.link.freeCount := rfl

/-! ### frameSent -/

@[simp] theorem frameSent_store (p : Blocks) : (frameSent p).store = p.store := rfl
@[simp] theorem frameSent_map (p : Blocks) : (frameSent p).map = p.map := rfl
@[simp] theorem frameSent_runner (p : Blocks) : (frameSent p).runner = p.runner := rfl
@[simp] theorem frameSent_bus (p : Blocks) : (frameSent p).bus = p.bus := rfl
@[simp] theorem frameSent_trigger (p : Blocks) : (frameSent p).trigger = p.trigger := rfl
@[simp] theorem frameSent_level (p : Blocks) : (frameSent p).level = p.level := rfl
@[simp] theorem frameSent_time (p : Blocks) : (frameSent p).time = p.time := rfl
@[simp] theorem frameSent_house (p : Blocks) : (frameSent p).house = p.house := rfl
@[simp] theorem frameSent_assembler (p : Blocks) : (frameSent p).link.assembler = p.link.assembler := rfl
@[simp] theorem frameSent_requests (p : Blocks) : (frameSent p).link.requests = p.link.requests := rfl
@[simp] theorem frameSent_replies (p : Blocks) : (frameSent p).link.replies = p.link.replies := rfl
@[simp] theorem frameSent_notices (p : Blocks) : (frameSent p).link.notices = p.link.notices := rfl
@[simp] theorem frameSent_transmitting (p : Blocks) : (frameSent p).link.transmitting = none := rfl
@[simp] theorem frameSent_lost (p : Blocks) : (frameSent p).link.lost = p.link.lost := rfl
@[simp] theorem frameSent_overrun (p : Blocks) : (frameSent p).link.overrun = p.link.overrun := rfl
@[simp] theorem frameSent_freeCount (p : Blocks) : (frameSent p).link.freeCount = p.link.freeCount := rfl

/-! ### modLink -/

@[simp] theorem modLink_store (f : LinkController → LinkController) (p : Blocks) : (modLink f p).store = p.store := rfl
@[simp] theorem modLink_map (f : LinkController → LinkController) (p : Blocks) : (modLink f p).map = p.map := rfl
@[simp] theorem modLink_runner (f : LinkController → LinkController) (p : Blocks) : (modLink f p).runner = p.runner := rfl
@[simp] theorem modLink_bus (f : LinkController → LinkController) (p : Blocks) : (modLink f p).bus = p.bus := rfl
@[simp] theorem modLink_trigger (f : LinkController → LinkController) (p : Blocks) : (modLink f p).trigger = p.trigger := rfl
@[simp] theorem modLink_level (f : LinkController → LinkController) (p : Blocks) : (modLink f p).level = p.level := rfl
@[simp] theorem modLink_time (f : LinkController → LinkController) (p : Blocks) : (modLink f p).time = p.time := rfl
@[simp] theorem modLink_house (f : LinkController → LinkController) (p : Blocks) : (modLink f p).house = p.house := rfl
@[simp] theorem modLink_link (f : LinkController → LinkController) (p : Blocks) : (modLink f p).link = f p.link := rfl

/-! ### modHouse -/

@[simp] theorem modHouse_store (f : HouseUnit → HouseUnit) (p : Blocks) : (modHouse f p).store = p.store := rfl
@[simp] theorem modHouse_map (f : HouseUnit → HouseUnit) (p : Blocks) : (modHouse f p).map = p.map := rfl
@[simp] theorem modHouse_runner (f : HouseUnit → HouseUnit) (p : Blocks) : (modHouse f p).runner = p.runner := rfl
@[simp] theorem modHouse_bus (f : HouseUnit → HouseUnit) (p : Blocks) : (modHouse f p).bus = p.bus := rfl
@[simp] theorem modHouse_trigger (f : HouseUnit → HouseUnit) (p : Blocks) : (modHouse f p).trigger = p.trigger := rfl
@[simp] theorem modHouse_level (f : HouseUnit → HouseUnit) (p : Blocks) : (modHouse f p).level = p.level := rfl
@[simp] theorem modHouse_time (f : HouseUnit → HouseUnit) (p : Blocks) : (modHouse f p).time = p.time := rfl
@[simp] theorem modHouse_link (f : HouseUnit → HouseUnit) (p : Blocks) : (modHouse f p).link = p.link := rfl
@[simp] theorem modHouse_house (f : HouseUnit → HouseUnit) (p : Blocks) : (modHouse f p).house = f p.house := rfl

/-! ### modTime -/

@[simp] theorem modTime_store (f : TimeUnit → TimeUnit) (p : Blocks) : (modTime f p).store = p.store := rfl
@[simp] theorem modTime_map (f : TimeUnit → TimeUnit) (p : Blocks) : (modTime f p).map = p.map := rfl
@[simp] theorem modTime_runner (f : TimeUnit → TimeUnit) (p : Blocks) : (modTime f p).runner = p.runner := rfl
@[simp] theorem modTime_bus (f : TimeUnit → TimeUnit) (p : Blocks) : (modTime f p).bus = p.bus := rfl
@[simp] theorem modTime_trigger (f : TimeUnit → TimeUnit) (p : Blocks) : (modTime f p).trigger = p.trigger := rfl
@[simp] theorem modTime_level (f : TimeUnit → TimeUnit) (p : Blocks) : (modTime f p).level = p.level := rfl
@[simp] theorem modTime_house (f : TimeUnit → TimeUnit) (p : Blocks) : (modTime f p).house = p.house := rfl
@[simp] theorem modTime_link (f : TimeUnit → TimeUnit) (p : Blocks) : (modTime f p).link = p.link := rfl
@[simp] theorem modTime_time (f : TimeUnit → TimeUnit) (p : Blocks) : (modTime f p).time = f p.time := rfl

/-! ### modLine -/

@[simp] theorem modLine_store (l : Nat) (f : LineWork → LineWork) (p : Blocks) : (modLine l f p).store = p.store := rfl
@[simp] theorem modLine_map (l : Nat) (f : LineWork → LineWork) (p : Blocks) : (modLine l f p).map = p.map := rfl
@[simp] theorem modLine_runner (l : Nat) (f : LineWork → LineWork) (p : Blocks) : (modLine l f p).runner = p.runner := rfl
@[simp] theorem modLine_bus (l : Nat) (f : LineWork → LineWork) (p : Blocks) : (modLine l f p).bus = p.bus := rfl
@[simp] theorem modLine_level (l : Nat) (f : LineWork → LineWork) (p : Blocks) : (modLine l f p).level = p.level := rfl
@[simp] theorem modLine_time (l : Nat) (f : LineWork → LineWork) (p : Blocks) : (modLine l f p).time = p.time := rfl
@[simp] theorem modLine_house (l : Nat) (f : LineWork → LineWork) (p : Blocks) : (modLine l f p).house = p.house := rfl
@[simp] theorem modLine_link (l : Nat) (f : LineWork → LineWork) (p : Blocks) : (modLine l f p).link = p.link := rfl
@[simp] theorem modLine_lines (l : Nat) (f : LineWork → LineWork) (p : Blocks) : (modLine l f p).trigger.lines = tset p.trigger.lines l (f (tget p.trigger.lines l)) := rfl
@[simp] theorem modLine_sources (l : Nat) (f : LineWork → LineWork) (p : Blocks) : (modLine l f p).trigger.sources = p.trigger.sources := rfl
@[simp] theorem modLine_pointers (l : Nat) (f : LineWork → LineWork) (p : Blocks) : (modLine l f p).trigger.pointers = p.trigger.pointers := rfl

/-! ### modSource -/

@[simp] theorem modSource_store (i : Nat) (f : SourceWork → SourceWork) (p : Blocks) : (modSource i f p).store = p.store := rfl
@[simp] theorem modSource_map (i : Nat) (f : SourceWork → SourceWork) (p : Blocks) : (modSource i f p).map = p.map := rfl
@[simp] theorem modSource_runner (i : Nat) (f : SourceWork → SourceWork) (p : Blocks) : (modSource i f p).runner = p.runner := rfl
@[simp] theorem modSource_bus (i : Nat) (f : SourceWork → SourceWork) (p : Blocks) : (modSource i f p).bus = p.bus := rfl
@[simp] theorem modSource_level (i : Nat) (f : SourceWork → SourceWork) (p : Blocks) : (modSource i f p).level = p.level := rfl
@[simp] theorem modSource_time (i : Nat) (f : SourceWork → SourceWork) (p : Blocks) : (modSource i f p).time = p.time := rfl
@[simp] theorem modSource_house (i : Nat) (f : SourceWork → SourceWork) (p : Blocks) : (modSource i f p).house = p.house := rfl
@[simp] theorem modSource_link (i : Nat) (f : SourceWork → SourceWork) (p : Blocks) : (modSource i f p).link = p.link := rfl
@[simp] theorem modSource_lines (i : Nat) (f : SourceWork → SourceWork) (p : Blocks) : (modSource i f p).trigger.lines = p.trigger.lines := rfl
@[simp] theorem modSource_sources (i : Nat) (f : SourceWork → SourceWork) (p : Blocks) : (modSource i f p).trigger.sources = tset p.trigger.sources i (f (tget p.trigger.sources i)) := rfl
@[simp] theorem modSource_pointers (i : Nat) (f : SourceWork → SourceWork) (p : Blocks) : (modSource i f p).trigger.pointers = p.trigger.pointers := rfl

/-! ### setPointer -/

@[simp] theorem setPointer_store (n x : Nat) (p : Blocks) : (setPointer n x p).store = p.store := rfl
@[simp] theorem setPointer_map (n x : Nat) (p : Blocks) : (setPointer n x p).map = p.map := rfl
@[simp] theorem setPointer_runner (n x : Nat) (p : Blocks) : (setPointer n x p).runner = p.runner := rfl
@[simp] theorem setPointer_bus (n x : Nat) (p : Blocks) : (setPointer n x p).bus = p.bus := rfl
@[simp] theorem setPointer_level (n x : Nat) (p : Blocks) : (setPointer n x p).level = p.level := rfl
@[simp] theorem setPointer_time (n x : Nat) (p : Blocks) : (setPointer n x p).time = p.time := rfl
@[simp] theorem setPointer_house (n x : Nat) (p : Blocks) : (setPointer n x p).house = p.house := rfl
@[simp] theorem setPointer_link (n x : Nat) (p : Blocks) : (setPointer n x p).link = p.link := rfl
@[simp] theorem setPointer_lines (n x : Nat) (p : Blocks) : (setPointer n x p).trigger.lines = p.trigger.lines := rfl
@[simp] theorem setPointer_sources (n x : Nat) (p : Blocks) : (setPointer n x p).trigger.sources = p.trigger.sources := rfl
@[simp] theorem setPointer_pointers (n x : Nat) (p : Blocks) : (setPointer n x p).trigger.pointers = tset p.trigger.pointers n x := rfl

/-! ### modGallery -/

@[simp] theorem modGallery_store (g : Nat) (f : GalleryWork → GalleryWork) (p : Blocks) : (modGallery g f p).store = p.store := rfl
@[simp] theorem modGallery_map (g : Nat) (f : GalleryWork → GalleryWork) (p : Blocks) : (modGallery g f p).map = p.map := rfl
@[simp] theorem modGallery_runner (g : Nat) (f : GalleryWork → GalleryWork) (p : Blocks) : (modGallery g f p).runner = p.runner := rfl
@[simp] theorem modGallery_bus (g : Nat) (f : GalleryWork → GalleryWork) (p : Blocks) : (modGallery g f p).bus = p.bus := rfl
@[simp] theorem modGallery_trigger (g : Nat) (f : GalleryWork → GalleryWork) (p : Blocks) : (modGallery g f p).trigger = p.trigger := rfl
@[simp] theorem modGallery_time (g : Nat) (f : GalleryWork → GalleryWork) (p : Blocks) : (modGallery g f p).time = p.time := rfl
@[simp] theorem modGallery_house (g : Nat) (f : GalleryWork → GalleryWork) (p : Blocks) : (modGallery g f p).house = p.house := rfl
@[simp] theorem modGallery_link (g : Nat) (f : GalleryWork → GalleryWork) (p : Blocks) : (modGallery g f p).link = p.link := rfl
@[simp] theorem modGallery_galleries (g : Nat) (f : GalleryWork → GalleryWork) (p : Blocks) : (modGallery g f p).level.galleries = tset p.level.galleries g (f (tget p.level.galleries g)) := rfl
@[simp] theorem modGallery_laws (g : Nat) (f : GalleryWork → GalleryWork) (p : Blocks) : (modGallery g f p).level.laws = p.level.laws := rfl

/-! ### modLaw -/

@[simp] theorem modLaw_store (ch : Nat) (f : LawWork → LawWork) (p : Blocks) : (modLaw ch f p).store = p.store := rfl
@[simp] theorem modLaw_map (ch : Nat) (f : LawWork → LawWork) (p : Blocks) : (modLaw ch f p).map = p.map := rfl
@[simp] theorem modLaw_runner (ch : Nat) (f : LawWork → LawWork) (p : Blocks) : (modLaw ch f p).runner = p.runner := rfl
@[simp] theorem modLaw_bus (ch : Nat) (f : LawWork → LawWork) (p : Blocks) : (modLaw ch f p).bus = p.bus := rfl
@[simp] theorem modLaw_trigger (ch : Nat) (f : LawWork → LawWork) (p : Blocks) : (modLaw ch f p).trigger = p.trigger := rfl
@[simp] theorem modLaw_time (ch : Nat) (f : LawWork → LawWork) (p : Blocks) : (modLaw ch f p).time = p.time := rfl
@[simp] theorem modLaw_house (ch : Nat) (f : LawWork → LawWork) (p : Blocks) : (modLaw ch f p).house = p.house := rfl
@[simp] theorem modLaw_link (ch : Nat) (f : LawWork → LawWork) (p : Blocks) : (modLaw ch f p).link = p.link := rfl
@[simp] theorem modLaw_galleries (ch : Nat) (f : LawWork → LawWork) (p : Blocks) : (modLaw ch f p).level.galleries = p.level.galleries := rfl
@[simp] theorem modLaw_laws (ch : Nat) (f : LawWork → LawWork) (p : Blocks) : (modLaw ch f p).level.laws = tset p.level.laws ch (f (tget p.level.laws ch)) := rfl

end Sys2Proof.Machine
end

