-- ==== Sys2Proof/Laws/Tables.lean ====
section
/-! SUPPORT. Reading a table after a write, and what holds of every thing in a table after an update. -/

namespace Sys2Proof.Machine

theorem tget_of_lt {α : Type} {n : Nat} [Inhabited α] (t : Table α n) (i : Nat) (h : i < n) : tget t i = t[i] := by
  simp [tget, List.getD_eq_getElem?_getD, h]

theorem tget_of_le {α : Type} {n : Nat} [Inhabited α] (t : Table α n) (i : Nat) (h : n ≤ i) : tget t i = default := by
  simp [tget, List.getD_eq_getElem?_getD, h]

theorem tget_tset_self {α : Type} {n : Nat} [Inhabited α] (t : Table α n) (i : Nat) (v : α) (h : i < n) :
    tget (tset t i v) i = v := by
  simp [tget_of_lt _ _ h, tset]

theorem tget_tset_ne {α : Type} {n : Nat} [Inhabited α] (t : Table α n) (i j : Nat) (v : α) (h : i ≠ j) :
    tget (tset t i v) j = tget t j := by
  by_cases hj : j < n
  · simp [tget_of_lt _ _ hj, tset, h]
  · simp [tget_of_le _ _ (Nat.le_of_not_lt hj)]

theorem tset_of_le {α : Type} {n : Nat} (t : Table α n) (i : Nat) (v : α) (h : n ≤ i) : tset t i v = t := by
  ext j hj
  simp [tset, show i ≠ j by omega]

theorem tget_replicate {α : Type} {n : Nat} [Inhabited α] (v : α) (i : Nat) (h : i < n) :
    tget (Vector.replicate n v : Table α n) i = v := by
  simp [tget_of_lt _ _ h]

theorem tget_tmap {α β : Type} {n : Nat} [Inhabited α] [Inhabited β] (f : α → β) (t : Table α n) (i : Nat) (h : i < n) :
    tget (tmap f t) i = f (tget t i) := by
  simp [tget, tmap, List.getD_eq_getElem?_getD, h]

theorem tget_mem {α : Type} {n : Nat} [Inhabited α] (t : Table α n) (i : Nat) (h : i < n) : tget t i ∈ t.toList := by
  rw [tget_of_lt _ _ h]; simp

/-- What is in a table after a write is what was written, or was there before. -/
theorem mem_tset {α : Type} {n : Nat} (t : Table α n) (i : Nat) (v x : α) (h : x ∈ (tset t i v).toList) :
    x = v ∨ x ∈ t.toList := by
  simp only [tset, Vector.mem_toList_iff] at h ⊢
  obtain ⟨j, hj, rfl⟩ := Vector.getElem_of_mem h
  rw [Vector.getElem_setIfInBounds]
  split
  · exact Or.inl rfl
  · exact Or.inr (Vector.getElem_mem hj)

theorem mem_tmap {α β : Type} {n : Nat} (f : α → β) (t : Table α n) (x : β) (h : x ∈ (tmap f t).toList) :
    ∃ y ∈ t.toList, f y = x := by
  simpa [tmap] using h

/-- A property of everything in a table is kept by a write of a thing that has it. -/
theorem forall_tset {α : Type} {n : Nat} {P : α → Prop} {t : Table α n} {i : Nat} {v : α} (ht : ∀ x ∈ t.toList, P x) (hv : P v) :
    ∀ x ∈ (tset t i v).toList, P x := by
  intro x hx
  rcases mem_tset t i v x hx with rfl | h
  · exact hv
  · exact ht x h

/-- A property of everything in a table after a change of everything in it. -/
theorem forall_tmap {α β : Type} {n : Nat} {P : β → Prop} {f : α → β} {t : Table α n} (ht : ∀ x ∈ t.toList, P (f x)) :
    ∀ x ∈ (tmap f t).toList, P x := by
  intro x hx
  obtain ⟨y, hy, rfl⟩ := mem_tmap f t x hx
  exact ht y hy

theorem mem_replicate {α : Type} {n : Nat} (v x : α) (h : x ∈ (Vector.replicate n v : Table α n).toList) : x = v := by
  simp only [Vector.toList_replicate, List.mem_replicate] at h
  exact h.2

/-- What a table holds at any index has a property of everything in it that the default has too. -/
theorem tget_prop {α : Type} {n : Nat} [Inhabited α] {P : α → Prop} {t : Table α n} (ht : ∀ x ∈ t.toList, P x) (hd : P default) (i : Nat) :
    P (tget t i) := by
  by_cases h : i < n
  · exact ht _ (tget_mem t i h)
  · rw [tget_of_le t i (Nat.le_of_not_lt h)]; exact hd

end Sys2Proof.Machine
end

