-- ==== Sys2Proof/Laws/Closed.lean ====
section
/-! SUPPORT. What the slots, stacks, groups and transactions can do to the part: a relation between the part before and after that holds of each of a few updates holds of every operation of Bus.lean, Slots.lean and Claims.lean. -/

namespace Sys2Proof.Machine

/-- A relation between the part before and after, kept by each update that firing, priming, ending and regaining are made of. A slot that is FREE is not filled. -/
structure Core (R : Blocks → Blocks → Prop) : Prop where
  refl : ∀ p, R p p
  trans : ∀ {p q r}, R p q → R q r → R p r
  notice : ∀ n p, R p (putNotice n p)
  /-- A slot's record is changed, or the slot is made FREE. -/
  slot : ∀ k r p, (slotOf p k ≠ none ∨ r = none) → R p (setSlot k r p)
  groups : ∀ gs p, R p (setGroups gs p)
  note : ∀ k p, k < 16 → R p (noteEnd k p)
  rest : ∀ id s p, R p (loadRest id s p)
  leave : ∀ k p, R p (leaveWait k p)
  off : ∀ ks p, R p (takeOff ks p)
  forget : ∀ k p, R p (clearLast k p)
  wipe : ∀ p, R p (clearStacks p)
  /-- A transaction enters a queue with room. -/
  enters : ∀ t p, p.bus.queue.length < 64 → R p { p with bus := { p.bus with queue := insertTx t p.bus.queue } }
  /-- A transaction enters a full queue in place of one of a class that is there. -/
  displaces : ∀ t c p, ¬ p.bus.queue.length < 64 → lowestClass p.bus.queue = some c →
    R p { p with bus := { p.bus with queue := insertTx t (dropYoungest c p.bus.queue) } }
  head : ∀ p, R p (takeHead p)

/-- A relation kept, besides, by each update that claims, launches and scans are made of. -/
structure Claims (R : Blocks → Blocks → Prop) : Prop extends Core R where
  fill : ∀ k r p, R p (setSlot k r p)
  /-- Pushing the entries of a claim that succeeds on the channels of a stored show. -/
  push : ∀ k (r : SlotRec) id sh p, showOf p id = some sh →
    (∀ ch ∈ sh.channels, ∀ e, topEntry p ch = some e → e.cls.below r.cls = true) →
    R p (sh.channels.foldl (fun q ch => pushEntry k r ch q) p)

/-- A relation kept, besides, when a slot joins the wait order, and by an action with its endings foreseen where it is kept by the action, whatever is foreseen of it. -/
structure Closed (R : Blocks → Blocks → Prop) : Prop extends Claims R where
  foreseen : ∀ act p, (∀ f, R (setForesight f p) (act (setForesight f p))) → R p (foresee act p)
  wait : ∀ w c p, R p { p with map := { p.map with waitOrder := w, waitCounter := c } }

theorem slotShow_some {p : Blocks} {k : Nat} {r : SlotRec} {sh : ShowRecord} (h : slotShow p k = some (r, sh)) :
    slotOf p k = some r ∧ showOf p r.showId = some sh := by
  unfold slotShow at h
  split at h
  · cases h
  · rename_i r' hr
    split at h
    · cases h
    · rename_i sh' hsh
      cases h
      exact ⟨hr, hsh⟩

theorem slotOf_of_le (p : Blocks) (k : Nat) (h : 16 ≤ k) : slotOf p k = none := tget_of_le _ _ h

theorem slotOf_lt {p : Blocks} {k : Nat} {r : SlotRec} (h : slotOf p k = some r) : k < 16 := by
  by_contra hk
  rw [slotOf_of_le p k (Nat.le_of_not_lt hk)] at h; cases h

/-- A slot with a record is not FREE. -/
theorem busy {p : Blocks} {k : Nat} {r : SlotRec} (h : slotOf p k = some r) (v : Option SlotRec) : slotOf p k ≠ none ∨ v = none :=
  Or.inl (by rw [h]; exact Option.some_ne_none r)

namespace Core

variable {R : Blocks → Blocks → Prop} (c : Core R)
include c

/-! ### Folds -/

theorem fold {α : Type} (f : Blocks → α → Blocks) (h : ∀ q a, R q (f q a)) (l : List α) (p : Blocks) : R p (l.foldl f p) := by
  induction l generalizing p with
  | nil => exact c.refl p
  | cons a l ih => exact c.trans (h p a) (ih (f p a))

/-! ### Bus.lean -/

theorem modSlot (k : Nat) (f : SlotRec → SlotRec) (p : Blocks) : R p (modSlot k f p) := by
  unfold Machine.modSlot
  split
  · exact c.refl p
  · exact c.slot _ _ p (busy ‹slotOf p _ = some _› _)

theorem addSkipped (k : Nat) (p : Blocks) : R p (addSkipped k p) := c.modSlot k _ p

theorem reportCueLost (t : Transaction) (cause : LostCause) (p : Blocks) : R p (reportCueLost t cause p) := by
  unfold Machine.reportCueLost
  split
  · split
    · exact c.refl p
    · exact c.trans (c.notice _ p) (c.addSkipped _ _)
  · exact c.refl p

theorem enterQueue (t : Transaction) (p : Blocks) : R p (enterQueue t p) := by
  unfold Machine.enterQueue
  split
  case isTrue h => exact c.enters t p h
  case isFalse h =>
    split
    · exact c.refl p
    · rename_i k hk
      split
      · dsimp only
        split
        · exact c.displaces t k p h hk
        · exact c.trans (c.displaces t k p h hk) (c.reportCueLost _ _ _)
      · exact c.reportCueLost _ _ p

theorem offer (t : Transaction) (p : Blocks) : R p (offer t p) := by
  unfold Machine.offer
  split
  · split
    · exact c.addSkipped _ p
    · exact c.refl p
  · exact c.trans (c.enterQueue t p) (c.head _)

theorem offerChannel (ch : Nat) (kind : TxKind) (cls : ShowClass) (origin cueIndex owner : Option Nat) (p : Blocks) :
    R p (offerChannel ch kind cls origin cueIndex owner p) := by
  unfold Machine.offerChannel
  split
  · exact c.refl p
  · exact c.offer _ p

theorem offerEach (kind : TxKind) (cls : ShowClass) (chs : List Nat) (p : Blocks) : R p (offerEach kind cls chs p) :=
  c.fold _ (fun q ch => c.offerChannel ch kind cls none none none q) chs p

/-! ### Slots.lean -/

theorem pointerTo (k ci : Nat) (p : Blocks) : R p (pointerTo k ci p) := c.modSlot k _ p

theorem fireTx (k ci ch : Nat) (kind : TxKind) (p : Blocks) : R p (fireTx k ci ch kind p) := by
  unfold Machine.fireTx
  split
  · exact c.refl p
  · exact c.offerChannel _ _ _ _ _ _ p

theorem fireAction (k ci : Nat) (sh : ShowRecord) (a : CueAction) (r : SlotRec) (p : Blocks) : R p (fireAction k ci sh a r p) := by
  cases a
  case hold => exact c.trans (c.modSlot _ _ p) (c.notice _ _)
  case mark => exact c.trans (c.pointerTo _ _ p) (c.notice _ _)
  all_goals exact c.trans (c.pointerTo _ _ p) (c.fireTx _ _ _ _ _)

theorem fireCues (k : Nat) (sh : ShowRecord) (cs : List Cue) (ci : Nat) (p : Blocks) : R p (fireCues k sh cs ci p) := by
  induction cs generalizing ci p with
  | nil => exact c.refl p
  | cons q cs ih =>
    unfold Machine.fireCues
    split
    · exact c.refl p
    · split
      · exact c.trans (c.fireAction _ _ _ _ _ p) (ih _ _)
      · exact c.refl p

theorem fireDue (k : Nat) (p : Blocks) : R p (fireDue k p) := by
  unfold Machine.fireDue
  split
  · exact c.refl p
  · exact c.fireCues _ _ _ _ p

theorem goSlot (k : Nat) (p : Blocks) : R p (goSlot k p) := by
  unfold Machine.goSlot
  split
  · exact c.refl p
  · exact c.trans (c.trans (c.trans (c.slot _ _ p (busy ‹slotOf p _ = some _› _)) (c.forget _ _)) (c.notice _ _)) (c.fireDue _ _)

theorem leaveGroup (k : Nat) (p : Blocks) : R p (leaveGroup k p) := c.trans (c.groups _ p) (c.modSlot _ _ _)

theorem goIfReady (k : Nat) (p : Blocks) : R p (goIfReady k p) := by
  unfold Machine.goIfReady
  split
  · exact c.goSlot k p
  · exact c.refl p

theorem deleteGroup (g : LaunchGroup) (p : Blocks) : R p (deleteGroup g p) :=
  c.trans (c.groups _ p) (c.fold _ (fun q k => c.modSlot k _ q) _ _)

theorem goGroup (g : LaunchGroup) (p : Blocks) : R p (goGroup g p) :=
  c.trans (c.deleteGroup g p) (c.fold _ (fun q k => c.goIfReady k q) _ _)

theorem dissolveGroup (g : LaunchGroup) (p : Blocks) : R p (dissolveGroup g p) :=
  c.trans (c.deleteGroup g p) (c.fold _ (fun q k => c.goIfReady k q) _ _)

theorem settleGroup (g : LaunchGroup) (p : Blocks) : R p (settleGroup g p) := by
  unfold Machine.settleGroup
  split
  · exact c.dissolveGroup g p
  · exact c.refl p

theorem considerGroup (leader : Nat) (p : Blocks) : R p (considerGroup leader p) := by
  unfold Machine.considerGroup
  split
  · exact c.refl p
  · split
    · exact c.dissolveGroup _ p
    · split
      · exact c.goGroup _ p
      · exact c.refl p

theorem settleGroups (p : Blocks) : R p (settleGroups p) := c.fold _ (fun q g => c.settleGroup g q) _ p

theorem slotReady (k : Nat) (p : Blocks) : R p (slotReady k p) := by
  unfold Machine.slotReady
  split
  · exact c.refl p
  · split
    · exact c.goSlot k p
    · exact c.trans (c.slot _ _ p (busy ‹slotOf p _ = some _› _)) (c.considerGroup _ _)

theorem offerPrepares (k : Nat) (cls : ShowClass) (chs : List (Nat × Nat)) (p : Blocks) : R p (offerPrepares k cls chs p) :=
  by
  unfold Machine.offerPrepares
  exact c.fold _ (fun q a => c.offerChannel _ _ _ _ _ _ q) chs p

theorem enterPriming (k : Nat) (p : Blocks) : R p (enterPriming k p) := by
  unfold Machine.enterPriming
  split
  · exact c.refl p
  · dsimp only
    split
    · exact c.trans (c.trans (c.slot _ _ p (busy (slotShow_some ‹slotShow p _ = some _›).1 _)) (c.offerPrepares _ _ _ _)) (c.slotReady _ _)
    · exact c.trans (c.slot _ _ p (busy (slotShow_some ‹slotShow p _ = some _›).1 _)) (c.offerPrepares _ _ _ _)

theorem readySlot (k ch clip : Nat) (p : Blocks) : R p (readySlot k ch clip p) := by
  unfold Machine.readySlot
  split
  · exact c.refl p
  · split
    · dsimp only
      split
      · exact c.trans (c.slot _ _ p (busy (slotShow_some ‹slotShow p _ = some _›).1 _)) (c.slotReady _ _)
      · exact c.slot _ _ p (busy (slotShow_some ‹slotShow p _ = some _›).1 _)
    · exact c.refl p

/-! ### Endings and removals -/

theorem primeStops (k : Nat) (why : EndReason) (p : Blocks) : R p (primeStops k why p) := by
  unfold Machine.primeStops
  split
  · exact c.refl p
  · split
    · exact c.offerEach _ _ _ p
    · exact c.refl p

theorem finishSlot (k : Nat) (why : EndReason) (p : Blocks) : R p (finishSlot k why p) := by
  unfold Machine.finishSlot
  split
  · exact c.refl p
  · refine c.trans ?_ (c.note _ _ (slotOf_lt ‹slotOf p _ = some _›))
    exact c.trans (c.trans (c.trans (c.trans (c.leave k p) (c.notice _ _)) (c.leaveGroup k _)) (c.slot _ _ _ (Or.inr rfl))) (c.rest _ _ _)

theorem endOne (k : Nat) (why : EndReason) (p : Blocks) : R p (endOne k why p) :=
  c.trans (c.primeStops k why p) (c.finishSlot k why _)

theorem exposeChannel (ch : Nat) (cls : ShowClass) (p : Blocks) : R p (exposeChannel ch cls p) := by
  unfold Machine.exposeChannel
  split
  · exact c.offerChannel _ _ _ _ _ _ p
  · split
    · exact c.refl p
    · exact c.offerChannel _ _ _ _ _ _ p

theorem restoreChannel (k ch : Nat) (p : Blocks) : R p (restoreChannel k ch p) := by
  unfold Machine.restoreChannel
  split
  · split
    · exact c.refl p
    · exact c.offerChannel _ _ _ _ _ _ p
  · exact c.refl p

theorem primeAgain (k : Nat) (p : Blocks) : R p (primeAgain k p) := by
  unfold Machine.primeAgain
  split
  · exact c.refl p
  · exact c.trans (c.slot _ _ p (busy (slotShow_some ‹slotShow p _ = some _›).1 _)) (c.enterPriming _ _)

theorem regainSlot (k : Nat) (p : Blocks) : R p (regainSlot k p) := by
  unfold Machine.regainSlot
  split
  · exact c.refl p
  · split
    · exact c.trans (c.trans (c.slot _ _ p (busy (slotShow_some ‹slotShow p _ = some _›).1 _)) (c.notice _ _)) (c.fold _ (fun q ch => c.restoreChannel _ ch q) _ _)
    · exact c.trans (c.trans (c.slot _ _ p (busy (slotShow_some ‹slotShow p _ = some _›).1 _)) (c.notice _ _)) (c.primeAgain _ _)

theorem regainIfTop (k : Nat) (p : Blocks) : R p (regainIfTop k p) := by
  unfold Machine.regainIfTop
  split
  · exact c.refl p
  · split
    · exact c.regainSlot k p
    · exact c.refl p

theorem removal (rescan : Blocks → Blocks) (hs : ∀ p, R p (rescan p)) (ks : List Nat) (p : Blocks) : R p (removal rescan ks p) := by
  unfold Machine.removal
  split
  · exact c.trans (c.trans (c.trans (c.trans (c.off ks p) (c.settleGroups _)) (c.fold _ (fun q a => c.exposeChannel _ _ q) _ _))
      (c.fold _ (fun q k => c.regainIfTop k q) _ _)) (hs _)
  · exact c.settleGroups p

theorem endSlotsWith (rescan : Blocks → Blocks) (hs : ∀ p, R p (rescan p)) (ends : List (Nat × EndReason)) (p : Blocks) :
    R p (endSlotsWith rescan ends p) :=
  c.trans (c.fold _ (fun q _ => c.endOne _ _ q) _ p) (c.removal rescan hs _ _)

/-! ### Claims -/

theorem suspendSlot (above : Nat) (cls : ShowClass) (k : Nat) (p : Blocks) : R p (suspendSlot above cls k p) := by
  unfold Machine.suspendSlot
  split
  · exact c.refl p
  · exact c.trans (c.trans (c.trans (c.slot _ _ p (busy (slotShow_some ‹slotShow p _ = some _›).1 _)) (c.leaveGroup _ _)) (c.offerEach _ _ _ _)) (c.notice _ _)

theorem yieldSlot (cls : ShowClass) (k : Nat) (p : Blocks) : R p (yieldSlot cls k p) := by
  unfold Machine.yieldSlot
  split
  · exact c.refl p
  · exact c.trans (c.offerEach _ _ _ p) (c.finishSlot _ _ _)

theorem preemptSlot (above : Nat) (cls : ShowClass) (k : Nat) (p : Blocks) : R p (preemptSlot above cls k p) := by
  unfold Machine.preemptSlot
  split
  · exact c.yieldSlot cls k p
  · exact c.suspendSlot above cls k p

end Core

/-- What is foreseen has no part in a claim (R28). -/
@[simp] theorem claimable_setForesight (f : Foresight) (p : Blocks) (k : Nat) : claimable (setForesight f p) k = claimable p k := rfl

/-- The tops that a claim that succeeds finds are of lower class (R28). -/
theorem claimable_below {p : Blocks} {k : Nat} {r : SlotRec} {sh : ShowRecord} (hs : slotShow p k = some (r, sh))
    (hc : claimable p k = true) : ∀ ch ∈ sh.channels, ∀ e, topEntry p ch = some e → e.cls.below r.cls = true := by
  intro ch hch e he
  simp only [claimable, hs, List.all_eq_true] at hc
  have := hc ch hch
  simpa [he] using this

namespace Claims

variable {R : Blocks → Blocks → Prop} (c : Claims R)
include c

theorem grant (rescan : Blocks → Blocks) (hs : ∀ p, R p (rescan p)) (k : Nat) (p : Blocks) (hc : claimable p k = true) :
    R p (grant rescan k p) := by
  unfold Machine.grant
  split
  · exact c.refl p
  · rename_i r sh h
    dsimp only
    refine c.trans (c.trans (c.trans (c.trans (c.fill _ _ p) (c.push k _ r.showId sh _ (slotShow_some h).2 ?_))
      (c.fold _ (fun q a => c.preemptSlot _ _ a q) _ _)) (c.fold _ (fun q a => c.endOne a .leader q) _ _)) (c.removal rescan hs _ _)
    exact fun ch hch e he => claimable_below h hc ch hch e he

theorem joinGroup (leader k : Nat) (p : Blocks) : R p (joinGroup leader k p) := by
  unfold Machine.joinGroup
  split
  · exact c.refl p
  · exact c.trans (c.groups _ p) (c.modSlot _ _ _)

theorem launchFollower (leader k : Nat) (p : Blocks) : R p (launchFollower leader k p) := by
  unfold Machine.launchFollower
  split
  · exact c.trans (c.joinGroup _ _ p) (c.enterPriming _ _)
  · exact c.refl p

theorem startFollower (rescan : Blocks → Blocks) (hs : ∀ p, R p (rescan p)) (leader : Nat) (p : Blocks) (id : Nat) :
    R p (startFollower rescan leader p id) := by
  unfold Machine.startFollower
  split
  · exact c.notice _ p
  · exact c.refl p
  · split
    · exact c.notice _ p
    · split
      · exact c.notice _ p
      · dsimp only
        split
        · exact c.notice _ p
        · rename_i h
          simp only [Bool.or_eq_true, Bool.not_eq_true', not_or, Bool.not_eq_false] at h
          exact c.trans (c.trans (c.fill _ _ p) (c.grant rescan hs _ _ h.2)) (c.launchFollower _ _ _)

theorem groupFormed (leader : Nat) (p : Blocks) : R p (groupFormed leader p) := c.trans (c.groups _ p) (c.considerGroup _ _)

theorem formGroup (rescan : Blocks → Blocks) (hs : ∀ p, R p (rescan p)) (leader : Nat) (fs : List Nat) (p : Blocks) :
    R p (formGroup rescan leader fs p) := by
  unfold Machine.formGroup
  dsimp only
  refine c.trans ?_ (c.trans (c.fold _ (fun q id => c.startFollower rescan hs leader q id) fs _) (c.groupFormed leader _))
  split
  · exact c.trans (c.trans (c.groups _ p) (c.modSlot _ _ _)) (c.enterPriming _ _)
  · exact c.refl p

theorem afterClaim (rescan : Blocks → Blocks) (hs : ∀ p, R p (rescan p)) (k id : Nat) (origin : Origin) (p : Blocks) :
    R p (afterClaim rescan k id origin p) := by
  unfold Machine.afterClaim
  split
  · exact c.trans (c.modSlot _ _ p) (c.goSlot _ _)
  · split
    · exact c.enterPriming _ p
    · exact c.refl p
  · exact c.formGroup rescan hs _ _ p

theorem scan (n : Nat) (p : Blocks) : R p (scan n p) := by
  induction n generalizing p with
  | zero => exact c.refl p
  | succ n ih =>
    unfold Machine.scan
    split
    · exact c.refl p
    · rename_i k hk
      have hc : claimable p k = true := List.find?_some hk
      split
      · exact c.refl p
      · exact c.trans (c.trans (c.trans (c.leave k p) (c.grant _ ih k _ hc)) (c.afterClaim _ ih _ _ _ _)) (ih _)

theorem pendingScan (p : Blocks) : R p (pendingScan p) := c.scan _ p

/-! ### Starts, ticks and timers -/

theorem beginAgain (k : Nat) (origin : Origin) (p : Blocks) : R p (beginAgain k origin p) := by
  unfold Machine.beginAgain
  split
  · exact c.refl p
  · exact c.trans (c.trans (c.trans (c.fill _ _ p) (c.forget _ _)) (c.notice _ _)) (c.fireDue _ _)

end Claims

namespace Closed

/-- What is foreseen does not stand against a relation that writing it keeps. -/
theorem foreseen_of {R : Blocks → Blocks → Prop} (trans : ∀ {p q r}, R p q → R q r → R p r) (write : ∀ f p, R p (setForesight f p))
    (act : Blocks → Blocks) (p : Blocks) (h : ∀ f, R (setForesight f p) (act (setForesight f p))) : R p (foresee act p) :=
  trans (trans (write _ p) (h _)) (write _ _)

variable {R : Blocks → Blocks → Prop} (c : Closed R)
include c

theorem endSlots (ends : List (Nat × EndReason)) (p : Blocks) : R p (endSlots ends p) :=
  c.foreseen _ p (fun _ => c.endSlotsWith _ c.pendingScan ends _)

theorem counted (ends : List (Nat × EndReason)) (p : Blocks) : R p (endCounted ends p).2 := c.endSlots ends p

theorem joinWait (k : Nat) (r : SlotRec) (p : Blocks) : R p (joinWait k r p) := c.trans (c.wait _ _ p) (c.fill _ _ _)

theorem takeSlot (k id : Nat) (sh : ShowRecord) (origin : Origin) (p : Blocks) : R p (takeSlot k id sh origin p).2 := by
  unfold Machine.takeSlot
  dsimp only
  split
  · rename_i h
    show R p (foresee (fun q => afterClaim pendingScan k id origin (grant pendingScan k q)) (setSlot k (some (SlotRec.taken id sh origin)) p))
    exact c.trans (c.fill _ _ p) (c.foreseen _ _ (fun f =>
      c.trans (c.grant _ c.pendingScan _ _ ((claimable_setForesight f _ k).trans h)) (c.afterClaim _ c.pendingScan _ _ _ _)))
  · split
    · exact c.joinWait _ _ p
    · exact c.refl p

theorem startShow (id : Nat) (origin : Origin) (restart : Bool) (p : Blocks) : R p (startShow id origin restart p).2 := by
  unfold Machine.startShow
  split
  · exact c.refl p
  · exact c.refl p
  · split
    · split
      · exact c.beginAgain _ _ p
      · exact c.refl p
    · split
      · exact c.refl p
      · exact c.takeSlot _ _ _ _ p

theorem lengthCheck (k : Nat) (p : Blocks) : R p (lengthCheck k p) := by
  unfold Machine.lengthCheck
  split
  · exact c.refl p
  · split
    · split
      · exact c.trans (c.trans (c.fill _ _ p) (c.forget _ _)) (c.fireDue _ _)
      · exact c.endSlots _ p
      · exact c.trans (c.trans (c.fill _ _ p) (c.forget _ _)) (c.fireDue _ _)
    · exact c.refl p

theorem releaseHold (k : Nat) (p : Blocks) : R p (releaseHold k p) := by
  unfold Machine.releaseHold
  split
  · exact c.refl p
  · exact c.trans (c.trans (c.fill _ _ p) (c.fireDue _ _)) (c.lengthCheck _ _)

theorem settlePriming (k : Nat) (p : Blocks) : R p (settlePriming k p) := by
  unfold Machine.settlePriming
  split
  · exact c.refl p
  · split
    · exact c.slotReady k p
    · split
      · exact c.endSlots _ p
      · exact c.endSlots _ p

theorem holdExpires (k : Nat) (p : Blocks) : R p (holdExpires k p) := by
  unfold Machine.holdExpires
  split
  · exact c.refl p
  · split
    · exact c.releaseHold k p
    · exact c.refl p

theorem primeExpires (k : Nat) (p : Blocks) : R p (primeExpires k p) := by
  unfold Machine.primeExpires
  split
  · exact c.refl p
  · split
    · exact c.trans (c.fill _ _ p) (c.settlePriming k _)
    · exact c.refl p

theorem advanceSlot (k : Nat) (r : SlotRec) (p : Blocks) : R p (advanceSlot k r p) :=
  c.trans (c.trans (c.fill _ _ p) (c.fireDue _ _)) (c.lengthCheck _ _)

theorem slotTick (k : Nat) (p : Blocks) : R p (slotTick k p) := by
  unfold Machine.slotTick
  split
  · exact c.refl p
  · split
    · split
      · exact c.refl p
      · exact c.advanceSlot k _ p
    · split
      · exact c.holdExpires k p
      · exact c.fill _ _ p
    · split
      · exact c.refl p
      · split
        · exact c.primeExpires k p
        · exact c.fill _ _ p
    · exact c.refl p

theorem clearAll (why : EndReason) (p : Blocks) : R p (clearAll why p) :=
  c.trans (c.fold _ (fun q k => c.finishSlot k why q) _ p) (c.wipe _)

end Closed

end Sys2Proof.Machine
end

