-- ==== Sys2Proof/Laws/Wider.lean ====
section
/-! SUPPORT. What the events can do to the part: a relation kept by the updates of Laws/Closed.lean and by those below is kept by every operation of Triggers.lean, House.lean, Lines.lean, Level.lean, Time.lean and Nodes.lean. -/

namespace Sys2Proof.Machine

/-- Alarm entry up to the start of the override show (steps 1 to 6 of R165). -/
def entryOrders (p : Blocks) : Blocks :=
  clearSources (hushNow (clearAll .alarm (putNotice (.alarm .entered) (overtake (modHouse (fun h => { h with alarmState := .alarm }) p)))))

/-- A relation kept by each update that the events are made of. -/
structure Wider (R : Blocks → Blocks → Prop) : Prop extends Closed R where
  take : ∀ i t p, R p (modSource i (fun w => { w with pending := false, rearm := t }) p)
  mark : ∀ i d p, underAlarm p = false → (tget p.trigger.sources i).rearm = none →
    R p (modSource i (fun w => { w with pending := true, direction := d }) p)
  idle : ∀ i p, R p (modSource i (fun w => { w with rearm := none }) p)
  rearms : ∀ f p, f none = none → R p (modRearm f p)
  pointer : ∀ n x p, R p (setPointer n x p)
  line : ∀ l f p, R p (modLine l f p)
  gallery : ∀ g f p, R p (modGallery g f p)
  law : ∀ ch f p, R p (modLaw ch f p)
  house : ∀ f p, (f p.house).alarmState = p.house.alarmState → R p (modHouse f p)
  alarm : ∀ a p, (a = .normal ∨ p.house.alarmState ≠ .normal) → R p (modHouse (fun h => { h with alarmState := a }) p)
  orders : ∀ p, R p (entryOrders p)
  /-- The takers with a tick in hand are the same. -/
  time : ∀ f p, (f p.time).inHand = p.time.inHand → R p (modTime f p)
  rests : ∀ f p, R p (modRest f p)
  slots : ∀ f p, R p (modSlots f p)
  restIdle : ∀ id p, R p (restExpires id p)
  empties : ∀ p, R p (emptyQueue p)
  discard : ∀ f p, R p { p with bus := { p.bus with queue := p.bus.queue.filter f } }
  job : ∀ j p, R p { p with bus := { p.bus with job := j } }
  polls : ∀ n p, R p { p with bus := { p.bus with pollTicks := n } }
  node : ∀ n r p, (r.failures ≤ 3 ∨ r.failures = (nodeRecord p n).failures) → R p (setNode n r p)
  last : ∀ ch f p, (∀ e : StackEntry, (f e).cls = e.cls) → R p (setOwners ch ((ownersOf p ch).map f) p)

theorem pulseAfter_inHand (rate q t : Nat) (u : TimeUnit) : (pulseAfter rate q t u).1.inHand = u.inHand := by
  unfold pulseAfter
  repeat' split
  all_goals rfl

theorem nextSecond_inHand (u : TimeUnit) : u.nextSecond.inHand = u.inHand := by
  unfold TimeUnit.nextSecond
  split <;> rfl

namespace Wider

variable {R : Blocks → Blocks → Prop} (c : Wider R)
include c

/-! ### Triggers.lean -/

theorem reportRefusal (b : Bool) (o : Origin) (id : Nat) (res : StartResult) (p : Blocks) : R p (reportRefusal b o id res p) := by
  unfold Machine.reportRefusal
  split
  · exact c.refl p
  · split
    · exact c.notice _ p
    · exact c.refl p

theorem startReported (b restart : Bool) (o : Origin) (id : Nat) (p : Blocks) : R p (startReported b restart o id p).2 :=
  c.trans (c.startShow _ _ _ p) (c.reportRefusal _ _ _ _ _)

theorem startEach (b : Bool) (number : Nat) (ids : List Nat) (p : Blocks) : R p (startEach b number ids p).2 := by
  induction ids generalizing p with
  | nil => exact c.refl p
  | cons id ids ih => exact c.trans (c.startReported _ _ _ _ p) (ih _)

theorem startDefinedSet (b : Bool) (number : Nat) (st : SetSettings) (p : Blocks) : R p (startDefinedSet b number st p).2 := by
  unfold Machine.startDefinedSet
  split
  · exact c.startEach _ _ _ p
  · dsimp only
    split
    · exact c.trans (c.startReported _ _ _ _ p) (c.pointer _ _ _)
    · exact c.startReported _ _ _ _ p

theorem startSetBy (b : Bool) (number : Nat) (p : Blocks) : R p (startSetBy b number p) := by
  unfold Machine.startSetBy
  split
  · exact c.refl p
  · exact c.startDefinedSet _ _ _ p

theorem stopHolding (id : Nat) (p : Blocks) : R p (stopHolding id p) := by
  unfold Machine.stopHolding
  split
  · exact c.refl p
  · exact c.endSlots _ p

theorem refuseRoute (i : Nat) (rt : RouteSettings) (id : Nat) (why : Reason) (p : Blocks) : R p (refuseRoute i rt id why p) := by
  unfold Machine.refuseRoute
  split
  · exact c.notice _ p
  · exact c.refl p

theorem routeAction (i : Nat) (rt : RouteSettings) (p : Blocks) : R p (routeAction i rt p) := by
  unfold Machine.routeAction
  split
  · exact c.startReported _ _ _ _ p
  · exact c.startReported _ _ _ _ p
  · exact c.startSetBy _ _ p
  · split
    · exact c.refuseRoute _ _ _ _ p
    · exact c.stopHolding _ p
  · split
    · exact c.refuseRoute _ _ _ _ p
    · split
      · exact c.refuseRoute _ _ _ _ p
      · exact c.releaseHold _ p
  · exact c.notice _ p
  · exact c.refl p

theorem takeSource (i : Nat) (p : Blocks) : R p (takeSource i p) := c.trans (c.take _ _ p) (c.routeAction _ _ _)

theorem takePending (p : Blocks) : R p (takePending p) := by
  unfold Machine.takePending
  refine c.fold _ (fun q s => ?_) _ p
  split
  · exact c.takeSource s q
  · exact c.refl q

/-! ### House.lean -/

theorem autostarts (p : Blocks) : R p (autostarts p) :=
  c.fold _ (fun q _ => c.trans (c.startShow _ _ _ q) (c.reportRefusal _ _ _ _ _)) _ p

theorem opening (cause : OpenCause) (p : Blocks) : R p (opening cause p) :=
  c.trans (c.trans (c.trans (c.house _ p rfl) (c.notice _ _)) (c.autostarts _)) (c.takePending _)

theorem closing (w : WakeSet) (o : CloseOrigin) (p : Blocks) : R p (closing w o p).2 := by
  unfold Machine.closing
  split
  · exact c.refl p
  · dsimp only
    split
    · exact c.trans (c.house _ p rfl) (c.notice _ _)
    · exact c.trans (c.trans (c.house _ p rfl) (c.notice _ _)) (c.counted _ _)

theorem overrideStart (p : Blocks) : R p (overrideStart p) := by
  unfold Machine.overrideStart
  split
  · exact c.refl p
  · split
    · exact c.notice _ p
    · split
      · exact c.notice _ p
      · split
        · exact c.notice _ p
        · exact c.startShow _ _ _ p

theorem loadEscalation (p : Blocks) : R p (loadEscalation p) := c.house _ p rfl

theorem hushNow (p : Blocks) : R p (hushNow p) := c.trans (c.empties p) (c.offer _ _)

theorem alarmEntry (p : Blocks) : R p (alarmEntry p) :=
  c.trans (c.trans (c.orders p) (c.overrideStart _)) (c.loadEscalation _)

theorem overrideAgain (p : Blocks) : R p (overrideAgain p) := by
  unfold Machine.overrideAgain
  split
  · exact c.beginAgain _ _ p
  · exact c.overrideStart p

theorem reassertion (p : Blocks) (h : p.house.alarmState = .alarmHeld) : R p (reassertion p) :=
  c.trans (c.trans (c.trans (c.trans (c.alarm .alarm p (Or.inr (by simp [h]))) (c.loadEscalation _)) (c.hushNow _)) (c.overrideAgain _))
    (c.notice _ _)

theorem assertion (p : Blocks) : R p (assertion p) := by
  unfold Machine.assertion
  split
  · exact c.alarmEntry p
  · exact c.refl p
  · rename_i h
    exact c.reassertion p h

theorem clearing (p : Blocks) : R p (clearing p) := by
  unfold Machine.clearing
  split
  · exact c.refl p
  · rename_i h
    exact c.trans (c.alarm .alarmHeld p (Or.inr (by simp [h]))) (c.notice _ _)
  · exact c.refl p

theorem alarmQualified (before : Option Bool) (a : Bool) (p : Blocks) : R p (alarmQualified before a p) := by
  unfold Machine.alarmQualified
  split
  · exact c.assertion p
  · split
    · exact c.clearing p
    · exact c.refl p
    · exact c.refl p

theorem alarmSample (a : Bool) (p : Blocks) : R p (alarmSample a p) := by
  unfold Machine.alarmSample
  split
  · exact c.refl p
  · split
    · exact c.house _ p rfl
    · split
      · exact c.house _ p rfl
      · exact c.trans (c.house _ p rfl) (c.alarmQualified _ _ _)

theorem escalate (p : Blocks) : R p (escalate p) := c.trans (c.house _ p rfl) (c.notice _ _)

theorem escalationTick (p : Blocks) : R p (escalationTick p) := by
  unfold Machine.escalationTick
  split
  · exact c.refl p
  · split
    · exact c.refl p
    · split
      · exact c.escalate p
      · exact c.house _ p rfl

theorem escalationExpires (p : Blocks) : R p (escalationExpires p) := by
  unfold Machine.escalationExpires
  split
  · exact c.refl p
  · exact c.escalate p

theorem resumeHouse (p : Blocks) : R p (resumeHouse p).2 := by
  have h1 : ∀ q, R p q → R p (modHouse (fun h => { h with acknowledged := false })
      (putNotice (.alarm .cleared) (modHouse (fun h => { h with alarmState := .normal }) q))) := fun q h =>
    c.trans h (c.trans (c.trans (c.alarm .normal q (Or.inl rfl)) (c.notice _ _)) (c.house _ _ rfl))
  unfold Machine.resumeHouse
  dsimp only
  cases overrideSlot p with
  | none =>
    dsimp only
    split
    · exact c.trans (h1 p (c.refl p)) (c.autostarts _)
    · exact h1 p (c.refl p)
  | some k =>
    dsimp only
    split
    · exact c.trans (h1 _ (c.endSlots _ p)) (c.autostarts _)
    · exact h1 _ (c.endSlots _ p)

/-! ### Lines.lean -/

theorem lineWake (l : Nat) (p : Blocks) : R p (lineWake l p) := by
  unfold Machine.lineWake
  split
  · exact c.opening _ p
  · exact c.refl p

theorem sourceEvent (i : Nat) (d : Option Direction) (p : Blocks) : R p (sourceEvent i d p) := by
  unfold Machine.sourceEvent
  split
  · exact c.refl p
  · rename_i ha
    split
    · exact c.refl p
    · rename_i hr
      have hm := c.mark i d p (by simpa using ha) (by simpa using hr)
      dsimp only
      split
      · exact c.trans hm (c.takeSource i _)
      · split
        · exact c.trans hm (c.lineWake i _)
        · exact hm

theorem reportLine (l : Nat) (d : Direction) (cause : TriggerCause) (e : Bool) (p : Blocks) : R p (reportLine l d cause e p) := by
  unfold Machine.reportLine
  split
  · exact c.notice _ p
  · exact c.refl p

theorem repeatNow (l : Nat) (p : Blocks) : R p (repeatNow l p) :=
  c.trans (c.trans (c.line _ _ p) (c.reportLine _ _ _ _ _)) (c.sourceEvent _ _ _)

theorem countRepeat (l : Nat) (p : Blocks) : R p (countRepeat l p) := by
  unfold Machine.countRepeat
  split
  · exact c.refl p
  · split
    · exact c.repeatNow l p
    · exact c.line _ _ p

theorem lineChange (l : Nat) (level : LineState) (p : Blocks) : R p (lineChange l level p) := by
  unfold Machine.lineChange
  dsimp only
  generalize (if level = .active then Direction.press else Direction.release) = d
  split
  · exact c.trans (c.trans (c.line _ _ p) (c.reportLine _ _ _ _ _)) (c.sourceEvent _ _ _)
  · exact c.trans (c.line _ _ p) (c.reportLine _ _ _ _ _)

theorem lineSample (l : Nat) (high : Bool) (p : Blocks) : R p (lineSample l high p) := by
  unfold Machine.lineSample
  dsimp only
  split
  · exact c.refl p
  · split
    · exact c.line _ _ p
    · split
      · exact c.trans (c.line _ _ p) (c.countRepeat _ _)
      · split
        · exact c.trans (c.line _ _ p) (c.countRepeat _ _)
        · exact c.lineChange _ _ p

theorem repeatEvent (l : Nat) (p : Blocks) : R p (repeatEvent l p) := by
  unfold Machine.repeatEvent
  split
  · exact c.refl p
  · split
    · exact c.refl p
    · exact c.repeatNow l p

/-! ### Level.lean -/

theorem crossings (g prev r : Nat) (p : Blocks) : R p (crossings g prev r p) := by
  unfold Machine.crossings
  dsimp only
  split
  · exact c.trans (c.trans (c.gallery _ _ p) (c.notice _ _)) (c.sourceEvent _ _ _)
  · split
    · exact c.trans (c.trans (c.gallery _ _ p) (c.notice _ _)) (c.sourceEvent _ _ _)
    · exact c.refl p

theorem stuckDetection (g prev r : Nat) (p : Blocks) : R p (stuckDetection g prev r p) := by
  unfold Machine.stuckDetection
  dsimp only
  split
  · split
    · exact c.trans (c.gallery _ _ p) (c.notice _ _)
    · exact c.gallery _ _ p
  · split
    · exact c.trans (c.notice _ p) (c.gallery _ _ _)
    · exact c.gallery _ _ p

theorem offerTrim (ch gain : Nat) (p : Blocks) : R p (offerTrim ch gain p) := c.offerChannel _ _ _ _ _ _ p

theorem moveLaw (ch r target : Nat) (law : LawSettings) (w : LawWork) (p : Blocks) : R p (moveLaw ch r target law w p) := by
  unfold Machine.moveLaw
  dsimp only
  split
  · exact c.trans (c.law _ _ p) (c.offerTrim _ _ _)
  · exact c.law _ _ p

theorem readLaw (ch r : Nat) (law : LawSettings) (p : Blocks) : R p (readLaw ch r law p) := by
  unfold Machine.readLaw
  dsimp only
  split
  · exact c.law _ _ p
  · exact c.moveLaw _ _ _ _ _ p

theorem readLaws (g r : Nat) (p : Blocks) : R p (readLaws g r p) := by
  unfold Machine.readLaws
  refine c.fold _ (fun q ch => ?_) _ p
  split
  · exact c.refl q
  · split
    · exact c.readLaw _ _ _ q
    · exact c.refl q

theorem levelSample (g r : Nat) (p : Blocks) : R p (levelSample g r p) := by
  unfold Machine.levelSample
  split
  · exact c.refl p
  · dsimp only
    split
    · exact c.trans (c.gallery _ _ p) (c.readLaws _ _ _)
    · exact c.trans (c.gallery _ _ p) (c.trans (c.trans (c.crossings _ _ _ _) (c.stuckDetection _ _ _ _)) (c.readLaws _ _ _))

theorem trimAcked (ch gain : Nat) (p : Blocks) : R p (trimAcked ch gain p) := by
  unfold Machine.trimAcked
  split
  · exact c.law _ _ p
  · exact c.refl p

theorem forgetSent (ch : Nat) (p : Blocks) : R p (forgetSent ch p) := c.law _ _ p

/-! ### Polling (Bus.lean) -/

theorem pollNodes (ns : List Nat) (p : Blocks) : R p (pollNodes ns p) := by
  induction ns generalizing p with
  | nil => exact c.refl p
  | cons n ns ih =>
    unfold Machine.pollNodes
    split
    · split
      · exact c.trans (c.offer _ p) (ih _)
      · exact c.refl p
    · exact ih p

theorem pollingRound (p : Blocks) : R p (pollingRound p) := c.pollNodes _ p

theorem pollReferenced (p : Blocks) : R p (pollReferenced p) := by
  unfold Machine.pollReferenced
  refine c.fold _ (fun q n => ?_) _ p
  split
  · exact c.offer _ q
  · exact c.refl q

/-! ### Time.lean -/

theorem syncPulse (t : Nat) (p : Blocks) : R p (syncPulse t p) := by
  unfold Machine.syncPulse
  split
  · exact c.refl p
  · split
    · exact c.time _ p rfl
    · rename_i q _
      dsimp only
      have h := pulseAfter_inHand (nominalRate p) q t p.time
      split
      · exact c.trans (c.time _ p h) (c.notice _ _)
      · exact c.time _ p h

theorem syncLoss (p : Blocks) : R p (syncLoss p) := by
  unfold Machine.syncLoss
  split
  · exact c.refl p
  · exact c.refl p
  · exact c.trans (c.time _ p rfl) (c.notice _ _)

theorem scheduleOpen (e : Nat) (p : Blocks) : R p (scheduleOpen e p) := by
  unfold Machine.scheduleOpen
  split
  · exact c.opening _ p
  · exact c.refl p

theorem scheduleClose (e : Nat) (w : WakeSet) (p : Blocks) : R p (scheduleClose e w p) := by
  have h := c.closing w (.schedule e) p
  unfold Machine.scheduleClose
  split
  · rename_i q hq
    rw [hq] at h
    exact c.trans h (c.notice _ _)
  · rename_i q hq
    rw [hq] at h
    exact h

theorem entryInOpen (e : Nat) (a : EntryAction) (t : Option Nat) (p : Blocks) : R p (entryInOpen e a t p) := by
  unfold Machine.entryInOpen
  split
  · exact c.startReported _ _ _ _ p
  · exact c.startSetBy _ _ p
  · exact c.stopHolding _ p
  · exact c.refl p

theorem entryUnderAlarm (e : Nat) (a : EntryAction) (t : Option Nat) (p : Blocks) : R p (entryUnderAlarm e a t p) := by
  cases a
  · exact c.notice _ p
  · exact c.notice _ p
  all_goals exact c.refl p

theorem entryAction (e : Nat) (p : Blocks) : R p (entryAction e p) := by
  unfold Machine.entryAction
  dsimp only
  split
  · exact c.scheduleClose _ _ p
  · split
    · exact c.refl p
    · exact c.scheduleOpen _ p
  · split
    · exact c.entryUnderAlarm _ _ _ p
    · split
      · exact c.entryInOpen _ _ _ p
      · exact c.refl p

theorem fireEntries (p : Blocks) : R p (fireEntries p) := c.fold _ (fun q e => c.entryAction e q) _ p

theorem dayAdvance (p : Blocks) : R p (dayAdvance p) := by
  unfold Machine.dayAdvance
  dsimp only
  split
  · exact c.trans (c.time _ p (nextSecond_inHand _)) (c.fireEntries _)
  · exact c.time _ p (nextSecond_inHand _)

theorem dayTick (p : Blocks) : R p (dayTick p) := by
  unfold Machine.dayTick
  split
  · exact c.time _ p rfl
  · exact c.dayAdvance p

theorem pollTick (p : Blocks) : R p (pollTick p) := by
  unfold Machine.pollTick
  split
  · exact c.polls _ p
  · exact c.trans (c.polls _ p) (c.pollingRound _)

theorem pollNow (p : Blocks) : R p (pollNow p) := by
  unfold Machine.pollNow
  split
  · exact c.refl p
  · exact c.trans (c.polls _ p) (c.pollingRound _)

theorem takeTick (t : TickTaker) (p : Blocks) : R p (takeTick t p) := by
  cases t
  · exact c.slotTick _ p
  · exact c.rests _ p
  · exact c.rearms _ p rfl
  · exact c.pollTick p
  · exact c.escalationTick p
  · exact c.dayTick p

/-! ### Nodes.lean -/

theorem updateLast (t : Transaction) (p : Blocks) : R p (updateLast t p) := by
  unfold Machine.updateLast
  split
  · refine c.last _ _ p (fun e => ?_)
    split <;> rfl
  · exact c.refl p

theorem restoreReturned (ch : Nat) (p : Blocks) : R p (restoreReturned ch p) := by
  unfold Machine.restoreReturned
  split
  · exact c.refl p
  · split
    · exact c.restoreChannel _ _ p
    · exact c.refl p

theorem nodeReturns (n : Nat) (p : Blocks) : R p (nodeReturns n p) := by
  unfold Machine.nodeReturns
  refine c.trans ?_ (c.fold _ (fun q ch => c.forgetSent ch q) _ _)
  exact c.trans (c.trans (c.node n { nodeRecord p n with presence := .present } p (Or.inr rfl)) (c.notice _ _)) (c.fold _ (fun q ch => c.restoreReturned ch q) _ _)

theorem handSuccess (t : Transaction) (b : Bool) (p : Blocks) : R p (handSuccess t b p) := by
  unfold Machine.handSuccess
  split
  · exact c.readySlot _ _ _ p
  · exact c.trimAcked _ _ p
  · split
    · exact c.nodeReturns _ p
    · exact c.refl p
  · exact c.updateLast t p

theorem busSuccess (t : Transaction) (p : Blocks) : R p (busSuccess t p) :=
  c.trans (c.node _ _ p (Or.inl (Nat.zero_le 3))) (c.handSuccess _ _ _)

theorem busRefusal (t : Transaction) (why : NakReason) (p : Blocks) : R p (busRefusal t why p) :=
  c.trans (c.node _ _ p (Or.inl (Nat.zero_le 3))) (c.reportCueLost _ _ _)

theorem countDiscarded (t : Transaction) (p : Blocks) : R p (countDiscarded t p) := by
  unfold Machine.countDiscarded
  split
  · exact c.addSkipped _ p
  · exact c.refl p

theorem nodeFalls (n : Nat) (p : Blocks) : R p (nodeFalls n p) :=
  c.trans (c.trans (c.trans (c.node n { nodeRecord p n with presence := .absent } p (Or.inr rfl)) (c.notice _ _)) (c.discard _ _)) (c.fold _ (fun q t => c.countDiscarded t q) _ _)

theorem busFailure (t : Transaction) (p : Blocks) : R p (busFailure t p) := by
  have h : R p (Machine.reportCueLost t .noAnswer (setNode t.node (nodeRecord p t.node).failing p)) := by
    refine c.trans (c.node _ _ p (Or.inl ?_)) (c.reportCueLost _ _ _)
    simp only [NodeRecord.failing]
    split <;> omega
  unfold Machine.busFailure
  dsimp only
  split
  · exact c.trans h (c.nodeFalls _ _)
  · exact h

theorem freeBus (p : Blocks) : R p (freeBus p) := c.trans (c.job _ p) (c.head _)

theorem attemptFailed (j : BusJob) (p : Blocks) : R p (attemptFailed j p) := by
  unfold Machine.attemptFailed
  split
  · exact c.job _ p
  · exact c.trans (c.busFailure _ p) (c.freeBus _)

theorem replyTo (j : BusJob) (reply : Option NodeReply) (p : Blocks) : R p (replyTo j reply p) := by
  unfold Machine.replyTo
  split
  · exact c.attemptFailed j p
  · split
    · split
      · exact c.trans (c.busRefusal _ _ p) (c.freeBus _)
      · split
        · exact c.trans (c.busSuccess _ p) (c.freeBus _)
        · exact c.attemptFailed j p
    · exact c.attemptFailed j p

theorem nodeReply (bytes : List Byte) (p : Blocks) : R p (nodeReply bytes p) := by
  unfold Machine.nodeReply
  split
  · exact c.refl p
  · split
    · exact c.refl p
    · exact c.replyTo _ _ p

theorem replyTimeout (p : Blocks) : R p (replyTimeout p) := by
  unfold Machine.replyTimeout
  split
  · exact c.refl p
  · split
    · exact c.refl p
    · exact c.attemptFailed _ p

theorem hushSent (p : Blocks) : R p (hushSent p) := by
  unfold Machine.hushSent
  split
  · exact c.refl p
  · split
    · exact c.freeBus p
    · exact c.refl p

theorem rearmExpires (i : Nat) (p : Blocks) : R p (rearmExpires i p) := c.idle i p

end Wider

end Sys2Proof.Machine
end

