-- ==== Sys2Proof/Laws/Kept.lean ====
section
/-! SUPPORT. What every event leaves as it was, and that every event but the request of an edit keeps each condition of Safety.lean. -/

namespace Sys2Proof.Machine

/-! ### Small facts about the updates -/

theorem putNotice_cases (n : Notice) (p : Blocks) :
    (p.link.notices.length < 32 ∧ putNotice n p = { p with link := { p.link with notices := p.link.notices ++ [n] } }) ∨
      (¬ p.link.notices.length < 32 ∧ putNotice n p = { p with link := { p.link with lost := true } }) := by
  unfold putNotice
  split
  · rename_i h; exact Or.inl ⟨h, rfl⟩
  · rename_i h; exact Or.inr ⟨h, rfl⟩

@[simp] theorem putNotice_store (n : Notice) (p : Blocks) : (putNotice n p).store = p.store := by unfold putNotice; split <;> rfl
@[simp] theorem putNotice_map (n : Notice) (p : Blocks) : (putNotice n p).map = p.map := by unfold putNotice; split <;> rfl
@[simp] theorem putNotice_runner (n : Notice) (p : Blocks) : (putNotice n p).runner = p.runner := by unfold putNotice; split <;> rfl
@[simp] theorem putNotice_bus (n : Notice) (p : Blocks) : (putNotice n p).bus = p.bus := by unfold putNotice; split <;> rfl
@[simp] theorem putNotice_trigger (n : Notice) (p : Blocks) : (putNotice n p).trigger = p.trigger := by unfold putNotice; split <;> rfl
@[simp] theorem putNotice_level (n : Notice) (p : Blocks) : (putNotice n p).level = p.level := by unfold putNotice; split <;> rfl
@[simp] theorem putNotice_time (n : Notice) (p : Blocks) : (putNotice n p).time = p.time := by unfold putNotice; split <;> rfl
@[simp] theorem putNotice_house (n : Notice) (p : Blocks) : (putNotice n p).house = p.house := by unfold putNotice; split <;> rfl
@[simp] theorem putNotice_assembler (n : Notice) (p : Blocks) : (putNotice n p).link.assembler = p.link.assembler := by unfold putNotice; split <;> rfl
@[simp] theorem putNotice_requests (n : Notice) (p : Blocks) : (putNotice n p).link.requests = p.link.requests := by unfold putNotice; split <;> rfl
@[simp] theorem putNotice_replies (n : Notice) (p : Blocks) : (putNotice n p).link.replies = p.link.replies := by unfold putNotice; split <;> rfl
@[simp] theorem putNotice_transmitting (n : Notice) (p : Blocks) : (putNotice n p).link.transmitting = p.link.transmitting := by unfold putNotice; split <;> rfl
@[simp] theorem putNotice_overrun (n : Notice) (p : Blocks) : (putNotice n p).link.overrun = p.link.overrun := by unfold putNotice; split <;> rfl
@[simp] theorem putNotice_freeCount (n : Notice) (p : Blocks) : (putNotice n p).link.freeCount = p.link.freeCount := by unfold putNotice; split <;> rfl

theorem putNotice_fits (n : Notice) (p : Blocks) (h : NoticesFit p) : NoticesFit (putNotice n p) := by
  rcases putNotice_cases n p with ⟨hl, e⟩ | ⟨_, e⟩ <;> rw [e]
  · simp only [NoticesFit, List.length_append, List.length_cons, List.length_nil]; omega
  · exact h

@[simp] theorem setNode_store (n : Nat) (r : NodeRecord) (p : Blocks) : (setNode n r p).store = p.store := by unfold setNode; split <;> rfl
@[simp] theorem setNode_map (n : Nat) (r : NodeRecord) (p : Blocks) : (setNode n r p).map = p.map := by unfold setNode; split <;> rfl
@[simp] theorem setNode_runner (n : Nat) (r : NodeRecord) (p : Blocks) : (setNode n r p).runner = p.runner := by unfold setNode; split <;> rfl
@[simp] theorem setNode_queue (n : Nat) (r : NodeRecord) (p : Blocks) : (setNode n r p).bus.queue = p.bus.queue := by unfold setNode; split <;> rfl
@[simp] theorem setNode_job (n : Nat) (r : NodeRecord) (p : Blocks) : (setNode n r p).bus.job = p.bus.job := by unfold setNode; split <;> rfl
@[simp] theorem setNode_pollTicks (n : Nat) (r : NodeRecord) (p : Blocks) : (setNode n r p).bus.pollTicks = p.bus.pollTicks := by unfold setNode; split <;> rfl
@[simp] theorem setNode_trigger (n : Nat) (r : NodeRecord) (p : Blocks) : (setNode n r p).trigger = p.trigger := by unfold setNode; split <;> rfl
@[simp] theorem setNode_level (n : Nat) (r : NodeRecord) (p : Blocks) : (setNode n r p).level = p.level := by unfold setNode; split <;> rfl
@[simp] theorem setNode_time (n : Nat) (r : NodeRecord) (p : Blocks) : (setNode n r p).time = p.time := by unfold setNode; split <;> rfl
@[simp] theorem setNode_house (n : Nat) (r : NodeRecord) (p : Blocks) : (setNode n r p).house = p.house := by unfold setNode; split <;> rfl
@[simp] theorem setNode_link (n : Nat) (r : NodeRecord) (p : Blocks) : (setNode n r p).link = p.link := by unfold setNode; split <;> rfl

/-- Taking the head changes the queue and the bus alone. -/
theorem takeHead_cases (p : Blocks) :
    takeHead p = p ∨ ∃ q j, takeHead p = { p with bus := { p.bus with queue := q, job := some j } } ∧ ∃ t, p.bus.queue = t :: q := by
  unfold takeHead
  split
  · exact Or.inl rfl
  · split
    · exact Or.inl rfl
    · split
      · exact Or.inl rfl
      · rename_i t q hq
        exact Or.inr ⟨q, _, rfl, t, hq⟩

@[simp] theorem pushEntry_store (k : Nat) (r : SlotRec) (ch : Nat) (p : Blocks) : (pushEntry k r ch p).store = p.store := rfl

/-- Pushing entries changes the channel map alone. -/
theorem pushes_map_only (k : Nat) (r : SlotRec) (chs : List Nat) (p : Blocks) :
    ∃ m, chs.foldl (fun q ch => pushEntry k r ch q) p = { p with map := m } := by
  induction chs generalizing p with
  | nil => exact ⟨p.map, rfl⟩
  | cons ch chs ih =>
    obtain ⟨m, hm⟩ := ih (pushEntry k r ch p)
    exact ⟨m, by rw [List.foldl_cons, hm]; rfl⟩

/-! ### What the slots and the bus queue leave as it was -/

theorem SlotsFrame.refl (p : Blocks) : SlotsFrame p p := ⟨rfl, rfl, rfl, rfl, rfl, rfl, rfl, rfl, rfl, rfl, rfl, rfl, rfl⟩

theorem SlotsFrame.trans {p q r : Blocks} (a : SlotsFrame p q) (b : SlotsFrame q r) : SlotsFrame p r :=
  ⟨b.store.trans a.store, b.trigger.trans a.trigger, b.level.trans a.level, b.time.trans a.time, b.house.trans a.house,
    b.nodes.trans a.nodes, b.pollTicks.trans a.pollTicks, b.assembler.trans a.assembler, b.requests.trans a.requests,
    b.replies.trans a.replies, b.transmitting.trans a.transmitting, b.overrun.trans a.overrun, b.freeCount.trans a.freeCount⟩

/-- The operations of Bus.lean, Slots.lean and Claims.lean leave everything in `SlotsFrame` as it was. -/
theorem slotsFrame : Closed SlotsFrame where
  refl := SlotsFrame.refl
  trans := SlotsFrame.trans
  notice n p := by constructor <;> simp
  slot _ _ p _ := by constructor <;> rfl
  fill _ _ p := by constructor <;> rfl
  leave _ p := by constructor <;> rfl
  groups _ p := by constructor <;> rfl
  note _ p _ := by constructor <;> rfl
  foreseen := Closed.foreseen_of SlotsFrame.trans (fun _ _ => by constructor <;> rfl)
  rest _ _ p := by constructor <;> rfl
  wait _ _ p := by constructor <;> rfl
  off _ p := by constructor <;> rfl
  forget _ p := by constructor <;> rfl
  wipe p := by constructor <;> rfl
  push k r _ sh p _ _ := by
    obtain ⟨m, hm⟩ := pushes_map_only k r sh.channels p
    rw [hm]; constructor <;> rfl
  enters _ p _ := by constructor <;> rfl
  displaces _ _ p _ _ := by constructor <;> rfl
  head p := by
    rcases takeHead_cases p with e | ⟨q, j, e, _⟩
    · rw [e]; constructor <;> rfl
    · rw [e]; constructor <;> rfl


/-! ### What the events leave as it was -/

theorem EventFrame.refl (p : Blocks) : EventFrame p p := ⟨rfl, rfl, rfl, rfl, rfl, rfl, rfl, Nat.le_refl _, fun h => ⟨h, rfl⟩⟩

theorem EventFrame.trans {p q r : Blocks} (a : EventFrame p q) (b : EventFrame q r) : EventFrame p r :=
  ⟨b.store.trans a.store, b.inHand.trans a.inHand, b.assembler.trans a.assembler, b.transmitting.trans a.transmitting, b.overrun.trans a.overrun,
    b.freeCount.trans a.freeCount, b.total.trans a.total, Nat.le_trans b.fewer a.fewer,
    fun h => ⟨(b.none (a.none h).1).1, (b.none (a.none h).1).2.trans (a.none h).2⟩⟩

/-- An update that leaves the store, the takers with a tick in hand and the link as they were. -/
theorem EventFrame.of_eq {p q : Blocks} (hs : q.store = p.store) (hl : q.link = p.link) (ht : q.time.inHand = p.time.inHand := by rfl) :
    EventFrame p q :=
  ⟨hs, ht, by rw [hl], by rw [hl], by rw [hl], by rw [hl], by rw [hl], by rw [hl], fun h => by rw [hl]; exact ⟨h, rfl⟩⟩

theorem SlotsFrame.toEvent {p q : Blocks} (h : SlotsFrame p q) : EventFrame p q :=
  ⟨h.store, by rw [h.time], h.assembler, h.transmitting, h.overrun, h.freeCount, by rw [h.replies, h.requests], by rw [h.requests],
    fun hn => ⟨h.requests.trans hn, h.replies⟩⟩

theorem EventFrame.overtake (p : Blocks) : EventFrame p (overtake p) :=
  ⟨rfl, rfl, rfl, rfl, rfl, rfl, by simp [Machine.overtake], by simp [Machine.overtake], fun h => by simp [Machine.overtake, h]⟩

/-- The operations of Bus.lean, Slots.lean and Claims.lean, for the relation of the events. -/
theorem eventFrameClosed : Closed EventFrame where
  refl := EventFrame.refl
  trans := EventFrame.trans
  notice n p := (slotsFrame.notice n p).toEvent
  slot k r p h := (slotsFrame.slot k r p h).toEvent
  fill k r p := (slotsFrame.fill k r p).toEvent
  leave k p := (slotsFrame.leave k p).toEvent
  groups gs p := (slotsFrame.groups gs p).toEvent
  note k p h := (slotsFrame.note k p h).toEvent
  foreseen := Closed.foreseen_of EventFrame.trans (fun _ _ => EventFrame.of_eq rfl rfl)
  rest i t p := (slotsFrame.rest i t p).toEvent
  wait w k p := (slotsFrame.wait w k p).toEvent
  off ks p := (slotsFrame.off ks p).toEvent
  forget k p := (slotsFrame.forget k p).toEvent
  wipe p := (slotsFrame.wipe p).toEvent
  push k r i sh p h1 h2 := (slotsFrame.push k r i sh p h1 h2).toEvent
  enters t p h := (slotsFrame.enters t p h).toEvent
  displaces t k p h1 h2 := (slotsFrame.displaces t k p h1 h2).toEvent
  head p := (slotsFrame.head p).toEvent

/-- The orders of alarm entry, for a relation that their parts keep. -/
theorem orders_of {R : Blocks → Blocks → Prop} (c : Closed R) (hh : ∀ p, R p (modHouse (fun h => { h with alarmState := .alarm }) p))
    (ho : ∀ p, R p (overtake p)) (he : ∀ p, R p (emptyQueue p)) (hc : ∀ p, R p (clearSources p)) (p : Blocks) : R p (entryOrders p) :=
  c.trans (c.trans (c.trans (c.trans (c.trans (c.trans (hh p) (ho _)) (c.notice _ _)) (c.clearAll _ _)) (he _)) (c.offer _ _)) (hc _)

/-- Every operation of the events leaves everything in `EventFrame` as it was. -/
theorem eventFrame : Wider EventFrame where
  toClosed := eventFrameClosed
  take _ _ _ := EventFrame.of_eq rfl rfl
  mark _ _ _ _ _ := EventFrame.of_eq rfl rfl
  idle _ _ := EventFrame.of_eq rfl rfl
  rearms _ _ _ := EventFrame.of_eq rfl rfl
  pointer _ _ _ := EventFrame.of_eq rfl rfl
  line _ _ _ := EventFrame.of_eq rfl rfl
  gallery _ _ _ := EventFrame.of_eq rfl rfl
  law _ _ _ := EventFrame.of_eq rfl rfl
  house _ _ _ := EventFrame.of_eq rfl rfl
  alarm _ _ _ := EventFrame.of_eq rfl rfl
  orders := orders_of eventFrameClosed (fun _ => EventFrame.of_eq rfl rfl) EventFrame.overtake (fun _ => EventFrame.of_eq rfl rfl)
    (fun _ => EventFrame.of_eq rfl rfl)
  time _ _ h := EventFrame.of_eq rfl rfl h
  rests _ _ := EventFrame.of_eq rfl rfl
  slots _ _ := EventFrame.of_eq rfl rfl
  restIdle _ _ := EventFrame.of_eq rfl rfl
  empties _ := EventFrame.of_eq rfl rfl
  discard _ _ := EventFrame.of_eq rfl rfl
  job _ _ := EventFrame.of_eq rfl rfl
  polls _ _ := EventFrame.of_eq rfl rfl
  node n r p _ := EventFrame.of_eq (setNode_store n r p) (setNode_link n r p) (by rw [setNode_time])
  last _ _ _ _ := EventFrame.of_eq rfl rfl

end Sys2Proof.Machine
end

