-- ==== Sys2Proof/Laws/Invariants.lean ====
section
/-! SUPPORT. Each condition of Safety.lean is kept by every operation of the events: the queue's order, the stacks, the notice queue, the trigger sources and the failure counts. -/

namespace Sys2Proof.Machine

/-! ### The transaction queue (R90, R92) -/

theorem below_iff (a b : ShowClass) : a.below b = true ↔ a.rank < b.rank := by simp [ShowClass.below]

theorem not_below_iff (a b : ShowClass) : a.below b = false ↔ b.rank ≤ a.rank := by simp [ShowClass.below]

theorem mem_insertTx (t x : Transaction) (q : List Transaction) : x ∈ insertTx t q ↔ x = t ∨ x ∈ q := by
  induction q with
  | nil => simp [insertTx]
  | cons y q ih =>
    unfold insertTx
    split
    · simp
    · simp only [List.mem_cons, ih]
      tauto

theorem insertTx_ordered (t : Transaction) (q : List Transaction) (h : QueueOrdered q) : QueueOrdered (insertTx t q) := by
  induction q with
  | nil => simp [insertTx, QueueOrdered]
  | cons y q ih =>
    obtain ⟨hy, hq⟩ := List.pairwise_cons.mp h
    unfold insertTx
    split
    · rename_i hb
      rw [below_iff] at hb
      refine List.pairwise_cons.mpr ⟨fun x hx => ?_, h⟩
      rw [not_below_iff]
      rcases List.mem_cons.mp hx with rfl | hx
      · omega
      · have := (not_below_iff _ _).mp (hy x hx); omega
    · rename_i hb
      refine List.pairwise_cons.mpr ⟨fun x hx => ?_, ih hq⟩
      rcases (mem_insertTx t x q).mp hx with rfl | hx
      · simpa using hb
      · exact hy x hx

theorem insertTx_length (t : Transaction) (q : List Transaction) : (insertTx t q).length = q.length + 1 := by
  induction q with
  | nil => rfl
  | cons y q ih =>
    unfold insertTx
    split
    · rfl
    · simp [ih]

theorem lowestClass_mem (q : List Transaction) (c : ShowClass) (h : lowestClass q = some c) : ∃ x ∈ q, x.cls = c := by
  induction q generalizing c with
  | nil => simp [lowestClass] at h
  | cons y q ih =>
    unfold lowestClass at h
    split at h
    · exact ⟨y, by simp, by simpa using h⟩
    · rename_i d hd
      split at h
      · exact ⟨y, by simp, by simpa using h⟩
      · obtain ⟨x, hx, e⟩ := ih d hd
        exact ⟨x, by simp [hx], by rw [e]; simpa using h⟩

theorem dropYoungest_sublist (c : ShowClass) (q : List Transaction) : (dropYoungest c q).Sublist q := by
  have h := (List.eraseP_sublist (p := fun x : Transaction => decide (x.cls = c)) (l := q.reverse)).reverse
  simpa [dropYoungest] using h

theorem dropYoungest_length (c : ShowClass) (q : List Transaction) (h : ∃ x ∈ q, x.cls = c) :
    (dropYoungest c q).length = q.length - 1 := by
  obtain ⟨x, hx, e⟩ := h
  unfold dropYoungest
  rw [List.length_reverse, List.length_eraseP_of_mem (a := x) (by simpa using hx) (by simpa using e), List.length_reverse]

theorem queueClosed : Closed (fun p q => QueueFits p → QueueFits q) where
  refl _ h := h
  trans a b h := b (a h)
  notice n p h := by simpa [QueueFits] using h
  slot _ _ _ _ h := h
  fill _ _ _ h := h
  leave _ _ h := h
  groups _ _ h := h
  note _ _ _ h := h
  foreseen _ _ h hp := h (.known _) hp
  rest _ _ _ h := h
  wait _ _ _ h := h
  off _ _ h := h
  forget _ _ h := h
  wipe _ h := h
  push k r _ sh p _ _ h := by
    obtain ⟨m, hm⟩ := pushes_map_only k r sh.channels p
    rw [hm]; exact h
  enters t p hl h := ⟨insertTx_ordered t _ h.1, by simp only [insertTx_length]; omega⟩
  displaces t c p hl hc h := by
    refine ⟨insertTx_ordered t _ (h.1.sublist (dropYoungest_sublist c _)), ?_⟩
    have hd := dropYoungest_length c p.bus.queue (lowestClass_mem _ c hc)
    have := h.2
    simp only [insertTx_length, hd]; omega
  head p h := by
    rcases takeHead_cases p with e | ⟨q, j, e, t, ht⟩ <;> rw [e]
    · exact h
    · have h1 : QueueOrdered (t :: q) := ht ▸ h.1
      have h2 : (t :: q).length ≤ 64 := ht ▸ h.2
      exact ⟨(List.pairwise_cons.mp h1).2, by simp only [List.length_cons] at h2; show q.length ≤ 64; omega⟩

/-- Every event keeps the queue ordered and within 64. -/
theorem queueKept : Wider (fun p q => QueueFits p → QueueFits q) where
  toClosed := queueClosed
  take _ _ _ h := h
  mark _ _ _ _ _ h := h
  idle _ _ h := h
  rearms _ _ _ h := h
  pointer _ _ _ h := h
  line _ _ _ h := h
  gallery _ _ _ h := h
  law _ _ _ h := h
  house _ _ _ h := h
  alarm _ _ _ h := h
  orders := orders_of queueClosed (fun _ h => h) (fun _ h => h) (fun _ _ => ⟨List.Pairwise.nil, Nat.zero_le _⟩) (fun _ h => h)
  time _ _ _ h := h
  rests _ _ h := h
  slots _ _ h := h
  restIdle _ _ h := h
  empties _ _ := ⟨List.Pairwise.nil, Nat.zero_le _⟩
  discard f p h := ⟨h.1.sublist List.filter_sublist, Nat.le_trans (List.length_filter_le f _) h.2⟩
  job _ _ h := h
  polls _ _ h := h
  node n r p _ h := by simpa [QueueFits] using h
  last _ _ _ _ h := h

/-! ### The notice queue (R178) -/

theorem noticesClosed : Closed (fun p q => NoticesFit p → NoticesFit q) where
  refl _ h := h
  trans a b h := b (a h)
  notice n p h := putNotice_fits n p h
  slot _ _ _ _ h := h
  fill _ _ _ h := h
  leave _ _ h := h
  groups _ _ h := h
  note _ _ _ h := h
  foreseen _ _ h hp := h (.known _) hp
  rest _ _ _ h := h
  wait _ _ _ h := h
  off _ _ h := h
  forget _ _ h := h
  wipe _ h := h
  push k r _ sh p _ _ h := by
    obtain ⟨m, hm⟩ := pushes_map_only k r sh.channels p
    rw [hm]; exact h
  enters _ _ _ h := h
  displaces _ _ _ _ _ h := h
  head p h := by rcases takeHead_cases p with e | ⟨q, j, e, t, ht⟩ <;> rw [e] <;> exact h

/-- Every event keeps the notice queue within 32. -/
theorem noticesKept : Wider (fun p q => NoticesFit p → NoticesFit q) where
  toClosed := noticesClosed
  take _ _ _ h := h
  mark _ _ _ _ _ h := h
  idle _ _ h := h
  rearms _ _ _ h := h
  pointer _ _ _ h := h
  line _ _ _ h := h
  gallery _ _ _ h := h
  law _ _ _ h := h
  house _ _ _ h := h
  alarm _ _ _ h := h
  orders := orders_of noticesClosed (fun _ h => h) (fun _ h => h) (fun _ h => h) (fun _ h => h)
  time _ _ _ h := h
  rests _ _ h := h
  slots _ _ h := h
  restIdle _ _ h := h
  empties _ h := h
  discard _ _ h := h
  job _ _ h := h
  polls _ _ h := h
  node n r p _ h := by simpa [NoticesFit] using h
  last _ _ _ _ h := h

/-! ### The owner stacks (R24) -/

/-- A stored show's channels are distinct, where every stored show's are. -/
theorem distinct_of_showOf {p : Blocks} {id : Nat} {sh : ShowRecord} (h : ShowsDistinct p.store.settings) (hs : showOf p id = some sh) :
    sh.channels.Nodup := by
  by_cases hi : id < 64
  · exact h sh (by rw [← hs]; exact tget_mem _ id hi)
  · rw [showOf, tget_of_le _ _ (Nat.le_of_not_lt hi)] at hs; cases hs

theorem topEntry_setOwners_ne (ch ch' : Nat) (es : List StackEntry) (p : Blocks) (h : ch ≠ ch') :
    topEntry (setOwners ch es p) ch' = topEntry p ch' := by
  simp [topEntry, ownersOf, tget_tset_ne _ _ _ _ h]

/-- A stack whose top is of lower class still increases with a new entry on it (R29). -/
theorem push_increases {p : Blocks} {ch : Nat} {e : StackEntry} (h : StacksIncrease p)
    (ht : ∀ x, topEntry p ch = some x → x.cls.below e.cls = true) : StackIncreases (e :: ownersOf p ch) := by
  have ho : StackIncreases (ownersOf p ch) := tget_prop (P := StackIncreases) h List.Pairwise.nil ch
  refine List.pairwise_cons.mpr ⟨fun x hx => ?_, ho⟩
  cases hs : ownersOf p ch with
  | nil => rw [hs] at hx; cases hx
  | cons y ys =>
    rw [hs] at hx ho
    have hy := ht y (by simp [topEntry, hs])
    rcases List.mem_cons.mp hx with rfl | hx
    · exact hy
    · have := (List.pairwise_cons.mp ho).1 x hx
      rw [below_iff] at *; omega

theorem pushes_increase (k : Nat) (r : SlotRec) (chs : List Nat) (p : Blocks) (hd : chs.Nodup) (h : StacksIncrease p)
    (ht : ∀ ch ∈ chs, ∀ e, topEntry p ch = some e → e.cls.below r.cls = true) :
    StacksIncrease (chs.foldl (fun q ch => pushEntry k r ch q) p) := by
  induction chs generalizing p with
  | nil => exact h
  | cons ch chs ih =>
    obtain ⟨hn, hd⟩ := List.nodup_cons.mp hd
    refine ih (pushEntry k r ch p) hd ?_ (fun c hc e he => ?_)
    · exact forall_tset (P := StackIncreases) (t := p.map.owners) h (push_increases h (ht ch (by simp)))
    · refine ht c (by simp [hc]) e ?_
      rw [← he]
      exact (topEntry_setOwners_ne ch c _ _ (fun hcc => hn (hcc ▸ hc))).symm

/-- The stored shows' channels are distinct, in working memory and in every image, and every stack increases. -/
def StacksSound (p : Blocks) : Prop := StoreDistinct p.store ∧ StacksIncrease p

theorem StacksSound.of_eq {p q : Blocks} (hs : q.store = p.store) (hm : q.map.owners = p.map.owners) (h : StacksSound p) : StacksSound q := by
  unfold StacksSound StacksIncrease at *
  rw [hs, hm]; exact h

/-- A change of every stack that keeps an increasing stack increasing. -/
theorem StacksSound.of_tmap {p q : Blocks} (f : List StackEntry → List StackEntry) (hs : q.store = p.store)
    (hm : q.map.owners = tmap f p.map.owners) (hf : ∀ es, StackIncreases es → StackIncreases (f es)) (h : StacksSound p) : StacksSound q := by
  refine ⟨by rw [hs]; exact h.1, ?_⟩
  unfold StacksIncrease
  rw [hm]
  exact forall_tmap (fun es hes => hf es (h.2 es hes))

/-- Entries changed but for their classes. -/
theorem increases_map (f : StackEntry → StackEntry) (hf : ∀ e, (f e).cls = e.cls) (es : List StackEntry) (h : StackIncreases es) :
    StackIncreases (es.map f) := by
  unfold StackIncreases
  rw [List.pairwise_map]
  exact h.imp (fun hab => by rw [hf, hf]; exact hab)

theorem stacksClosed : Closed (fun p q => StacksSound p → StacksSound q) where
  refl _ h := h
  trans a b h := b (a h)
  notice n p := StacksSound.of_eq (by simp) (by simp)
  slot _ _ _ _ := StacksSound.of_eq rfl rfl
  fill _ _ _ := StacksSound.of_eq rfl rfl
  leave _ _ := StacksSound.of_eq rfl rfl
  groups _ _ := StacksSound.of_eq rfl rfl
  note _ _ _ := StacksSound.of_eq rfl rfl
  foreseen _ _ h hp := h (.known _) hp
  rest _ _ _ := StacksSound.of_eq rfl rfl
  wait _ _ _ := StacksSound.of_eq rfl rfl
  off ks p := StacksSound.of_tmap _ rfl rfl (fun _ h => h.sublist List.filter_sublist)
  forget k p := StacksSound.of_tmap _ rfl rfl (increases_map _ (fun e => by split <;> rfl))
  wipe p h := ⟨h.1, fun es hes => by rw [mem_replicate _ _ hes]; exact List.Pairwise.nil⟩
  push k r id sh p hs ht h := by
    obtain ⟨m, hm⟩ := pushes_map_only k r sh.channels p
    exact ⟨by rw [hm]; exact h.1, pushes_increase k r sh.channels p (distinct_of_showOf h.1.1 hs) h.2 ht⟩
  enters _ _ _ := StacksSound.of_eq rfl rfl
  displaces _ _ _ _ _ := StacksSound.of_eq rfl rfl
  head p h := by rcases takeHead_cases p with e | ⟨q, j, e, t, ht⟩ <;> rw [e] <;> exact h

/-- Every event keeps the stacks increasing, where the stored shows' channels are distinct. -/
theorem stacksKept : Wider (fun p q => StacksSound p → StacksSound q) where
  toClosed := stacksClosed
  take _ _ _ := StacksSound.of_eq rfl rfl
  mark _ _ _ _ _ := StacksSound.of_eq rfl rfl
  idle _ _ := StacksSound.of_eq rfl rfl
  rearms _ _ _ := StacksSound.of_eq rfl rfl
  pointer _ _ _ := StacksSound.of_eq rfl rfl
  line _ _ _ := StacksSound.of_eq rfl rfl
  gallery _ _ _ := StacksSound.of_eq rfl rfl
  law _ _ _ := StacksSound.of_eq rfl rfl
  house _ _ _ := StacksSound.of_eq rfl rfl
  alarm _ _ _ := StacksSound.of_eq rfl rfl
  orders := orders_of stacksClosed (fun _ => StacksSound.of_eq rfl rfl) (fun _ => StacksSound.of_eq rfl rfl) (fun _ => StacksSound.of_eq rfl rfl)
    (fun _ => StacksSound.of_eq rfl rfl)
  time _ _ _ := StacksSound.of_eq rfl rfl
  rests _ _ := StacksSound.of_eq rfl rfl
  slots _ _ := StacksSound.of_eq rfl rfl
  restIdle _ _ := StacksSound.of_eq rfl rfl
  empties _ := StacksSound.of_eq rfl rfl
  discard _ _ := StacksSound.of_eq rfl rfl
  job _ _ := StacksSound.of_eq rfl rfl
  polls _ _ := StacksSound.of_eq rfl rfl
  node n r p _ := StacksSound.of_eq (by simp) (by simp)
  last ch f p hf h := ⟨h.1, forall_tset (P := StackIncreases) (t := p.map.owners) h.2
    (increases_map f hf _ (tget_prop (P := StackIncreases) h.2 List.Pairwise.nil ch))⟩

/-! ### The trigger sources (R118, R124) -/

/-- A pending source has an idle rearm timer, and under alarm no source is pending. -/
def SourcesSound (p : Blocks) : Prop := PendingIsArmed p ∧ AlarmClearsPending p

theorem SourcesSound.of_eq {p q : Blocks} (ht : q.trigger = p.trigger) (hh : q.house = p.house) (h : SourcesSound p) : SourcesSound q := by
  unfold SourcesSound PendingIsArmed AlarmClearsPending underAlarm at *
  rw [ht, hh]; exact h

theorem sourcesClosed : Closed (fun p q => SourcesSound p → SourcesSound q) where
  refl _ h := h
  trans a b h := b (a h)
  notice n p := SourcesSound.of_eq (by simp) (by simp)
  slot _ _ _ _ h := h
  fill _ _ _ h := h
  leave _ _ h := h
  groups _ _ h := h
  note _ _ _ h := h
  foreseen _ _ h hp := h (.known _) hp
  rest _ _ _ h := h
  wait _ _ _ h := h
  off _ _ h := h
  forget _ _ h := h
  wipe _ h := h
  push k r _ sh p _ _ h := by
    obtain ⟨m, hm⟩ := pushes_map_only k r sh.channels p
    rw [hm]; exact h
  enters _ _ _ h := h
  displaces _ _ _ _ _ h := h
  head p h := by rcases takeHead_cases p with e | ⟨q, j, e, t, ht⟩ <;> rw [e] <;> exact h

theorem sourcesSound_clearSources (p : Blocks) : SourcesSound (clearSources p) :=
  ⟨forall_tmap (P := fun w : SourceWork => w.pending = true → w.rearm = none) (fun _ _ h => by cases h),
    fun _ => forall_tmap (P := fun w : SourceWork => w.pending = false) (fun _ _ => rfl)⟩

/-- Writing a source that is not pending. -/
theorem sourcesSound_write {p : Blocks} (i : Nat) (v : SourceWork) (hv : v.pending = true → v.rearm = none)
    (ha : underAlarm p = true → v.pending = false) (h : SourcesSound p) :
    SourcesSound { p with trigger := { p.trigger with sources := tset p.trigger.sources i v } } :=
  ⟨forall_tset (P := fun w : SourceWork => w.pending = true → w.rearm = none) h.1 hv,
    fun hu => forall_tset (P := fun w : SourceWork => w.pending = false) (h.2 hu) (ha hu)⟩

/-- Every event keeps the trigger sources sound. -/
theorem sourcesKept : Wider (fun p q => SourcesSound p → SourcesSound q) where
  toClosed := sourcesClosed
  take i t p h := sourcesSound_write i _ (fun hp => by cases hp) (fun _ => rfl) h
  mark i d p ha hr h := sourcesSound_write i _ (fun _ => hr) (fun hu => by rw [ha] at hu; cases hu) h
  idle i p h := sourcesSound_write i _ (fun _ => rfl)
    (fun hu => tget_prop (P := fun w : SourceWork => w.pending = false) (h.2 hu) rfl i) h
  rearms f p hf h :=
    ⟨forall_tmap (P := fun w : SourceWork => w.pending = true → w.rearm = none) (fun w hw hp => by
        show f w.rearm = none
        rw [h.1 w hw hp]; exact hf),
      fun hu => forall_tmap (P := fun w : SourceWork => w.pending = false) (fun w hw => h.2 hu w hw)⟩
  pointer _ _ _ h := h
  line _ _ _ h := h
  gallery _ _ _ h := h
  law _ _ _ h := h
  house f p hf h := ⟨h.1, fun hu => h.2 (by simp only [underAlarm, modHouse_house, hf] at hu ⊢; exact hu)⟩
  alarm a p ha h := ⟨h.1, fun hu => h.2 (by
    have hn : a ≠ .normal := of_decide_eq_true hu
    exact decide_eq_true (ha.resolve_left hn))⟩
  orders p _ := sourcesSound_clearSources _
  time _ _ _ h := h
  rests _ _ h := h
  slots _ _ h := h
  restIdle _ _ h := h
  empties _ h := h
  discard _ _ h := h
  job _ _ h := h
  polls _ _ h := h
  node n r p _ := SourcesSound.of_eq (by simp) (by simp)
  last _ _ _ _ h := h

/-! ### The node table (R101) -/

theorem failuresClosed : Closed (fun p q => FailuresFit p → FailuresFit q) where
  refl _ h := h
  trans a b h := b (a h)
  notice n p h := by simpa [FailuresFit] using h
  slot _ _ _ _ h := h
  fill _ _ _ h := h
  leave _ _ h := h
  groups _ _ h := h
  note _ _ _ h := h
  foreseen _ _ h hp := h (.known _) hp
  rest _ _ _ h := h
  wait _ _ _ h := h
  off _ _ h := h
  forget _ _ h := h
  wipe _ h := h
  push k r _ sh p _ _ h := by
    obtain ⟨m, hm⟩ := pushes_map_only k r sh.channels p
    rw [hm]; exact h
  enters _ _ _ h := h
  displaces _ _ _ _ _ h := h
  head p h := by rcases takeHead_cases p with e | ⟨q, j, e, t, ht⟩ <;> rw [e] <;> exact h

theorem nodeRecord_failures {p : Blocks} (h : FailuresFit p) (n : Nat) : (nodeRecord p n).failures ≤ 3 := by
  unfold nodeRecord
  split
  · exact Nat.zero_le 3
  · rw [List.getD_eq_getElem?_getD]
    cases hx : p.bus.nodes.toList[n - 1]? with
    | none => exact Nat.zero_le 3
    | some r => exact h r (List.mem_of_getElem? hx)

/-- Every event keeps the failure counts at 3 or less. -/
theorem failuresKept : Wider (fun p q => FailuresFit p → FailuresFit q) where
  toClosed := failuresClosed
  take _ _ _ h := h
  mark _ _ _ _ _ h := h
  idle _ _ h := h
  rearms _ _ _ h := h
  pointer _ _ _ h := h
  line _ _ _ h := h
  gallery _ _ _ h := h
  law _ _ _ h := h
  house _ _ _ h := h
  alarm _ _ _ h := h
  orders := orders_of failuresClosed (fun _ h => h) (fun _ h => h) (fun _ h => h) (fun _ h => h)
  time _ _ _ h := h
  rests _ _ h := h
  slots _ _ h := h
  restIdle _ _ h := h
  empties _ h := h
  discard _ _ h := h
  job _ _ h := h
  polls _ _ h := h
  node n r p hr h := by
    have hv : r.failures ≤ 3 := by
      rcases hr with hr | hr
      · exact hr
      · rw [hr]; exact nodeRecord_failures h n
    unfold setNode
    split
    · exact h
    · exact forall_tset (P := fun r : NodeRecord => r.failures ≤ 3) h hv
  last _ _ _ _ h := h

end Sys2Proof.Machine
end

