-- ==== Sys2Proof/Laws/Asks.lean ====
section
/-! SUPPORT. What the requests can do to the part: a relation kept by the events' updates, by a write of settings whose shows list distinct channels, and by clearing a pending flag, is kept by every queued request. -/

namespace Sys2Proof.Machine

/-- A relation kept by each update that the queued requests are made of. -/
structure Asks (R : Blocks → Blocks → Prop) : Prop extends Wider R where
  settings : ∀ st p, (ShowsDistinct p.store.settings → ShowsDistinct st) → R p (setSettings st p)
  flag : ∀ i p, R p (modSource i (fun w => { w with pending := false }) p)

/-- A write of one show whose channels are distinct. -/
theorem showsDistinct_write {st : Settings} {id : Nat} {v : Option ShowRecord} (h : ShowsDistinct st)
    (hv : ∀ sh, v = some sh → sh.channels.Nodup) : ShowsDistinct { st with shows := tset st.shows id v } := by
  intro sh hsh
  rcases mem_tset st.shows id v (some sh) hsh with e | hm
  · exact hv sh e.symm
  · exact h sh hm

theorem headerOf_distinct {st : Settings} {r : DefineShowReq} {h : ShowHeader} (hh : headerOf st r = some h) : h.channels.Nodup := by
  unfold headerOf at hh
  iterate 12 obtain ⟨_, _, hh⟩ := Option.bind_eq_some_iff.mp hh
  have e := hh
  dsimp only at e
  split at e
  · rename_i hc
    cases e
    simp only [channelListOk, Bool.and_eq_true, decide_eq_true_eq] at hc
    exact hc.1.2.1.2
  · cases e

namespace Asks

variable {R : Blocks → Blocks → Prop} (c : Asks R)
include c

theorem setShow (id : Nat) (v : Option ShowRecord) (p : Blocks) (hv : ShowsDistinct p.store.settings → ∀ sh, v = some sh → sh.channels.Nodup) :
    R p (setShow id v p) := c.settings _ p (fun h => showsDistinct_write h (hv h))

theorem dropLaw (ch : Nat) (p : Blocks) : R p (dropLaw ch p) := by
  refine c.trans (c.settings _ p ?_) (c.law _ _ _)
  exact fun h => h

theorem defineShow (r : DefineShowReq) (p : Blocks) : R p (askDefineShow r p).2 := by
  unfold askDefineShow refuseAs
  split
  · exact c.refl p
  · split
    · exact c.refl p
    · split
      · exact c.refl p
      · rename_i h hh
        split
        · refine c.setShow _ _ p (fun _ sh e => ?_)
          cases e
          exact headerOf_distinct hh
        · exact c.refl p

theorem appendCues (r : AppendCuesReq) (p : Blocks) : R p (askAppendCues r p).2 := by
  unfold askAppendCues refuseAs
  split
  · exact c.refl p
  · split
    · exact c.refl p
    · rename_i sh hs
      split
      · exact c.refl p
      · split
        · exact c.refl p
        · split
          · exact c.refl p
          · split
            · exact c.refl p
            · split
              · exact c.refl p
              · refine c.setShow _ _ p (fun hd x e => ?_)
                cases e
                exact distinct_of_showOf (sh := sh) hd hs

theorem eraseShow (id : Nat) (p : Blocks) : R p (askEraseShow id p).2 := by
  unfold askEraseShow refuseAs
  split
  · exact c.refl p
  · split
    · exact c.refl p
    · split
      · exact c.refl p
      · exact c.setShow _ _ p (fun _ x e => by cases e)

theorem readHeader (id : Nat) (p : Blocks) : R p (askReadHeader id p).2 := by
  unfold askReadHeader refuseAs
  split
  · exact c.refl p
  · split <;> exact c.refl p

theorem readPage (id start : Nat) (p : Blocks) : R p (askReadPage id start p).2 := by
  unfold askReadPage refuseAs
  split
  · exact c.refl p
  · split
    · exact c.refl p
    · split <;> exact c.refl p

theorem lawAfterChannel (ch : Nat) (old new : Option ChannelEntry) (p : Blocks) : R p (lawAfterChannel ch old new p) := by
  unfold Machine.lawAfterChannel
  split
  · exact c.dropLaw ch p
  · split
    · exact c.dropLaw ch p
    · split
      · exact c.forgetSent ch p
      · exact c.refl p

theorem setChannel (r : SetChannelReq) (p : Blocks) : R p (askSetChannel r p).2 := by
  unfold askSetChannel refuseAs
  split
  · exact c.refl p
  · split
    · exact c.refl p
    · dsimp only
      split
      · exact c.refl p
      · split
        · exact c.refl p
        · split
          · exact c.refl p
          · refine c.trans (c.settings _ p ?_) (c.lawAfterChannel _ _ _ _)
            exact fun h => h

theorem getChannel (ch : Nat) (p : Blocks) : R p (askGetChannel ch p).2 := by
  unfold askGetChannel refuseAs
  split <;> exact c.refl p

theorem stopGallery (g : Nat) (p : Blocks) : R p (askStopGallery g p).2 := by
  unfold askStopGallery refuseAs
  split
  · exact c.refl p
  · exact c.counted _ p

theorem start (id option : Nat) (p : Blocks) : R p (askStart id option p).2 := by
  unfold askStart refuseAs
  split
  · exact c.refl p
  · rename_i restart _
    have h := c.startShow id .link restart p
    split
    · rename_i e; rw [e] at h; exact h
    · rename_i e; rw [e] at h; exact h

theorem stop (id : Nat) (p : Blocks) : R p (askStop id p).2 := by
  unfold askStop refuseAs
  split
  · exact c.refl p
  · split
    · exact c.refl p
    · split
      · exact c.refl p
      · split
        · exact c.refl p
        · exact c.endSlots _ p

theorem release (id : Nat) (p : Blocks) : R p (askRelease id p).2 := by
  unfold askRelease refuseAs
  split
  · exact c.refl p
  · split
    · exact c.refl p
    · split
      · exact c.refl p
      · exact c.releaseHold _ p

theorem getSlot (k : Nat) (p : Blocks) : R p (askGetSlot k p).2 := by
  unfold askGetSlot refuseAs
  split
  · exact c.refl p
  · split <;> exact c.refl p

theorem setBus (timeout retries : Nat) (p : Blocks) : R p (askSetBus timeout retries p).2 := by
  unfold askSetBus refuseAs
  split
  · exact c.settings _ p (fun h => h)
  · exact c.refl p

theorem getNodes (p : Blocks) : R p (askGetNodes p).2 := c.refl p

theorem setLine (r : SetLineReq) (p : Blocks) : R p (askSetLine r p).2 := by
  unfold askSetLine refuseAs
  split
  · exact c.refl p
  · split
    · exact c.refl p
    · refine c.trans (c.settings _ p ?_) (c.line _ _ _)
      exact fun h => h

theorem setRoute (r : SetRouteReq) (p : Blocks) : R p (askSetRoute r p).2 := by
  unfold askSetRoute refuseAs
  split
  · exact c.refl p
  · split
    · exact c.refl p
    · dsimp only
      split
      · refine c.trans (c.settings _ p ?_) (c.takeSource _ _)
        exact fun h => h
      · exact c.settings _ p (fun h => h)

theorem clearPending (chosen : BitVec 64) (p : Blocks) : R p (askClearPending chosen p).2 := by
  refine c.fold _ (fun q i => ?_) _ p
  split
  · exact c.flag i q
  · exact c.refl q

theorem defineSet (r : DefineSetReq) (p : Blocks) : R p (askDefineSet r p).2 := by
  unfold askDefineSet refuseAs
  split
  · exact c.refl p
  · split
    · exact c.refl p
    · refine c.trans (c.settings _ p ?_) (c.pointer _ _ _)
      exact fun h => h

theorem startSet (number : Nat) (p : Blocks) : R p (askStartSet number p).2 := by
  unfold askStartSet refuseAs
  split
  · exact c.refl p
  · split
    · exact c.refl p
    · split
      · exact c.refl p
      · exact c.startDefinedSet _ _ _ p

theorem getTriggers (table start : Nat) (p : Blocks) : R p (askGetTriggers table start p).2 := by
  unfold askGetTriggers refuseAs
  split
  · split <;> exact c.refl p
  · split <;> exact c.refl p
  · split <;> exact c.refl p
  · exact c.refl p

theorem clearLevelFlags (chosen : BitVec 48) (p : Blocks) : R p (askClearLevelFlags chosen p).2 :=
  c.fold _ (fun q g => c.gallery g _ q) _ p

theorem getLevels (start : Nat) (p : Blocks) : R p (askGetLevels start p).2 := by
  unfold askGetLevels refuseAs
  split
  · exact c.refl p
  · exact c.fold _ (fun q g => c.gallery g _ q) _ p

theorem setGallery (r : SetGalleryReq) (p : Blocks) : R p (askSetGallery r p).2 := by
  unfold askSetGallery refuseAs
  split
  · exact c.refl p
  · split
    · exact c.refl p
    · exact c.settings _ p (fun h => h)

theorem writeLaw (ch : Nat) (law : LawSettings) (p : Blocks) : R p (writeLaw ch law p) := by
  refine c.trans (c.settings _ p ?_) (c.law _ _ _)
  exact fun h => h

theorem setLaw (r : SetLawReq) (p : Blocks) : R p (askSetLaw r p).2 := by
  unfold askSetLaw refuseAs
  split
  · exact c.refl p
  · split
    · exact c.refl p
    · split
      · dsimp only
        split
        · exact c.writeLaw _ _ p
        · exact c.trans (c.writeLaw _ _ p) (c.offerTrim _ _ _)
      · exact c.refl p

theorem removeLaw (ch : Nat) (p : Blocks) : R p (askRemoveLaw ch p).2 := by
  unfold askRemoveLaw refuseAs
  split
  · exact c.refl p
  · exact c.dropLaw ch p

theorem getLaw (ch : Nat) (p : Blocks) : R p (askGetLaw ch p).2 := by
  unfold askGetLaw refuseAs
  split <;> exact c.refl p

theorem setTimebase (source : Nat) (rate : OptField) (p : Blocks) : R p (askSetTimebase source rate p).2 := by
  unfold askSetTimebase refuseAs
  split
  · exact c.refl p
  · split
    · exact c.refl p
    · refine c.trans (c.settings _ p ?_) (c.time _ _ rfl)
      exact fun h => h

theorem setTime (second weekday : Nat) (p : Blocks) : R p (askSetTime second weekday p).2 := by
  unfold askSetTime refuseAs
  split
  · dsimp only
    exact c.time _ p rfl
  · exact c.refl p

theorem getTime (p : Blocks) : R p (askGetTime p).2 := by
  unfold askGetTime refuseAs
  split <;> exact c.refl p

theorem setEntry (r : SetEntryReq) (p : Blocks) : R p (askSetEntry r p).2 := by
  unfold askSetEntry refuseAs
  split
  · exact c.refl p
  · split
    · exact c.refl p
    · exact c.settings _ p (fun h => h)

theorem getEntry (e : Nat) (p : Blocks) : R p (askGetEntry e p).2 := by
  unfold askGetEntry refuseAs
  split <;> exact c.refl p

theorem closeHouse (w : WakeReq) (p : Blocks) : R p (askClose w p).2 := by
  unfold askClose refuseAs
  split
  · exact c.refl p
  · rename_i ws _
    have h := c.closing ws .link p
    split
    · rename_i e; rw [e] at h; exact h
    · rename_i e; rw [e] at h; exact h

theorem openHouse (p : Blocks) : R p (askOpen p).2 := by
  unfold askOpen refuseAs
  split
  · exact c.refl p
  · split
    · exact c.refl p
    · dsimp only
      exact c.opening _ p

theorem alarmAck (p : Blocks) : R p (askAlarmAck p).2 := by
  unfold askAlarmAck refuseAs
  split
  · exact c.refl p
  · dsimp only
    exact c.house _ p rfl

theorem resume (p : Blocks) : R p (askResume p).2 := by
  unfold askResume refuseAs
  split
  · exact c.refl p
  · exact c.refl p
  · split
    · exact c.resumeHouse p
    · exact c.refl p

theorem setAlarm (showId : OptField) (ackTime : Nat) (p : Blocks) : R p (askSetAlarm showId ackTime p).2 := by
  unfold askSetAlarm refuseAs
  split
  · split
    · exact c.refl p
    · split
      · exact c.refl p
      · exact c.settings _ p (fun h => h)
  · exact c.refl p

theorem stopAll (p : Blocks) : R p (askStopAll p).2 := by
  show R p (offer hushTx (withdrawSlots (clearAll .stopped p)))
  exact c.trans (c.trans (c.clearAll _ p) (c.discard _ _)) (c.offer _ _)

end Asks

end Sys2Proof.Machine
end

