-- ==== Sys2Proof/Laws/Edits.lean ====
section
/-! SUPPORT. What an arriving frame, the transmitter, a save, a load and the immediate requests can do to the part, and that each condition of Safety.lean but the link's counts is kept by them. -/

namespace Sys2Proof.Machine

/-- A relation kept by each update that the commands are made of. -/
structure Edits (R : Blocks → Blocks → Prop) : Prop extends Asks R where
  link : ∀ l p, l.notices.length ≤ p.link.notices.length → R p { p with link := l }
  store : ∀ s p, (StoreDistinct p.store → StoreDistinct s) → R p { p with store := s }
  runner : ∀ r p, r.foresight = p.runner.foresight → R p { p with runner := r }
  level : ∀ l p, R p { p with level := l }
  resetNodes : ∀ p, R p (resetNodes p)
  clearSources : ∀ p, R p (clearSources p)
  begins : ∀ p, R p (powerUp p)
  hand : ∀ f p, R p (modTime f p)

theorem showsDistinct_initial : ShowsDistinct Settings.initial := by
  intro sh h
  have := mem_replicate _ _ h
  cases this

theorem loadedImage_distinct {p : Blocks} (h : StoreDistinct p.store) (im : Image) (e : loadedImage p.store = some im) :
    ShowsDistinct im.settings := by
  unfold loadedImage at e
  split at e
  · cases e
  · rename_i ar _
    cases ar
    · exact h.2.1 im e
    · exact h.2.2.1 im e

namespace Edits

variable {R : Blocks → Blocks → Prop} (c : Edits R)
include c

theorem reply (r : Reply) (p : Blocks) : R p (putReply r p) := c.link _ p (Nat.le_refl _)

theorem answer (tag kind : Byte) (out : Verdict × Blocks) (p : Blocks) (h : R p out.2) : R p (answerWith tag kind out) :=
  c.trans h (c.reply _ _)

theorem overtake (p : Blocks) : R p (overtake p) := c.link _ p (Nat.le_refl _)

theorem getStatus (p : Blocks) : R p (askGetStatus p).2 := c.link _ p (Nat.le_refl _)

/-! ### Saving and loading (R15, R16, R18) -/

theorem beginSave (tag : Byte) (p : Blocks) : R p (beginSave tag p) := by
  refine c.store _ p (fun h => ?_)
  obtain ⟨h1, h2, h3, _⟩ := h
  cases saveArea p.store
  · exact ⟨h1, (fun im e => by cases e), h3, (fun j e => by cases e; exact h1)⟩
  · exact ⟨h1, h2, (fun im e => by cases e), (fun j e => by cases e; exact h1)⟩

theorem endSave (passes : Bool) (p : Blocks) : R p (endSave passes p) := by
  unfold Machine.endSave
  split
  · exact c.refl p
  · rename_i j hj
    refine c.trans (c.trans (c.store _ p ?_) (c.reply _ _)) (c.notice _ _)
    rintro ⟨h1, h2, h3, h4⟩
    have hn : ∀ k, (none : Option SaveJob) = some k → ShowsDistinct k.image.settings := fun k e => by cases e
    have hi : ∀ im, some j.image = some im → ShowsDistinct im.settings := fun im e => by cases e; exact h4 j hj
    have h0 : ∀ im : Image, none = some im → ShowsDistinct im.settings := fun im e => by cases e
    unfold savedStore
    cases passes <;> cases ha : j.area
    · exact ⟨h1, h0, h3, hn⟩
    · exact ⟨h1, h2, h0, hn⟩
    · exact ⟨h1, hi, h3, hn⟩
    · exact ⟨h1, h2, hi, hn⟩

theorem endLoad (p : Blocks) : R p (endLoad p) := by
  unfold Machine.endLoad
  split
  · dsimp only
    refine c.trans (c.trans (c.trans (c.store _ p ?_) (c.time (fun u => u.afresh _) _ rfl)) (c.notice _ _)) (c.pollReferenced _)
    intro h
    refine ⟨?_, h.2.1, h.2.2.1, h.2.2.2⟩
    dsimp only
    cases e : loadedImage p.store with
    | none => exact showsDistinct_initial
    | some im => exact loadedImage_distinct h im e
  · exact c.refl p

theorem resetLine (p : Blocks) : R p (resetLine p) := c.trans (c.begins p) (c.hand _ _)

/-! ### The immediate requests -/

theorem resetHouse (p : Blocks) : R p (resetHouse p) :=
  c.trans (c.alarm .normal p (Or.inl rfl)) (c.house (fun h => { h with
    acknowledged := false, escalation := none, alert := false, qualified := none, run := 0, runLevel := false }) _ rfl)

theorem resetBlocks (p : Blocks) : R p (resetBlocks p) := by
  unfold Machine.resetBlocks
  refine c.trans ?_ (c.hand _ _)
  refine c.trans ?_ (c.resetHouse _)
  refine c.trans ?_ (c.level _ _)
  refine c.trans ?_ (c.clearSources _)
  refine c.trans ?_ (c.pollReferenced _)
  refine c.trans ?_ (c.hushNow _)
  refine c.trans ?_ (c.resetNodes _)
  refine c.trans ?_ (c.wait _ 0 _)
  refine c.trans ?_ (c.wipe _)
  exact c.runner _ p rfl

theorem resetNotices (p : Blocks) : R p (resetNotices p) := by
  refine c.trans ?_ (c.notice _ _)
  exact c.link _ p (Nat.zero_le _)

theorem resetPart (tag : Byte) (p : Blocks) : R p (resetPart tag p) :=
  c.trans (c.trans (c.trans (c.overtake p) (c.reply _ _)) (c.resetBlocks _)) (c.resetNotices _)

theorem takeRequest (tag kind : Byte) (r : Request) (p : Blocks) : R p (takeRequest tag kind r p) := by
  cases r
  case saveStore => exact c.beginSave tag p
  case reset => exact c.resetPart tag p
  case defineShow r => exact c.answer _ _ _ p (c.defineShow r p)
  case appendCues r => exact c.answer _ _ _ p (c.appendCues r p)
  case eraseShow id => exact c.answer _ _ _ p (c.eraseShow id p)
  case readShowHeader id => exact c.answer _ _ _ p (c.readHeader id p)
  case readShowPage id n => exact c.answer _ _ _ p (c.readPage id n p)
  case setChannel r => exact c.answer _ _ _ p (c.setChannel r p)
  case getChannel ch => exact c.answer _ _ _ p (c.getChannel ch p)
  case stopGallery g => exact c.answer _ _ _ p (c.stopGallery g p)
  case startShow id o => exact c.answer _ _ _ p (c.start id o p)
  case stopShow id => exact c.answer _ _ _ p (c.stop id p)
  case release id => exact c.answer _ _ _ p (c.release id p)
  case getSlot k => exact c.answer _ _ _ p (c.getSlot k p)
  case setBus t n => exact c.answer _ _ _ p (c.setBus t n p)
  case getNodes => exact c.answer _ _ _ p (c.getNodes p)
  case setLine r => exact c.answer _ _ _ p (c.setLine r p)
  case setRoute r => exact c.answer _ _ _ p (c.setRoute r p)
  case clearPending b => exact c.answer _ _ _ p (c.clearPending b p)
  case defineSet r => exact c.answer _ _ _ p (c.defineSet r p)
  case startSet n => exact c.answer _ _ _ p (c.startSet n p)
  case getTriggers t n => exact c.answer _ _ _ p (c.getTriggers t n p)
  case clearLevelFlags b => exact c.answer _ _ _ p (c.clearLevelFlags b p)
  case getLevels n => exact c.answer _ _ _ p (c.getLevels n p)
  case setGallery r => exact c.answer _ _ _ p (c.setGallery r p)
  case setLaw r => exact c.answer _ _ _ p (c.setLaw r p)
  case removeLaw ch => exact c.answer _ _ _ p (c.removeLaw ch p)
  case getLaw ch => exact c.answer _ _ _ p (c.getLaw ch p)
  case setTimebase s r => exact c.answer _ _ _ p (c.setTimebase s r p)
  case setTime s d => exact c.answer _ _ _ p (c.setTime s d p)
  case getTime => exact c.answer _ _ _ p (c.getTime p)
  case setEntry r => exact c.answer _ _ _ p (c.setEntry r p)
  case getEntry e => exact c.answer _ _ _ p (c.getEntry e p)
  case closeHouse w => exact c.answer _ _ _ p (c.closeHouse w p)
  case openHouse => exact c.answer _ _ _ p (c.openHouse p)
  case alarmAck => exact c.answer _ _ _ p (c.alarmAck p)
  case resume => exact c.answer _ _ _ p (c.resume p)
  case setAlarm s t => exact c.answer _ _ _ p (c.setAlarm s t p)
  case getStatus => exact c.answer _ _ _ p (c.getStatus p)
  case stopAll => exact c.answer _ _ _ p (c.stopAll p)

/-! ### The link -/

theorem takeQueued (q : Queued) (p : Blocks) : R p (takeQueued q p) := by
  unfold Machine.takeQueued
  split
  · exact c.reply _ p
  · exact c.reply _ p
  · exact c.reply _ p
  · exact c.takeRequest _ _ _ p

theorem serveUpTo (n : Nat) (p : Blocks) : R p (serveUpTo n p) := by
  induction n generalizing p with
  | zero => exact c.refl p
  | succ n ih =>
    unfold Machine.serveUpTo
    split
    · exact c.refl p
    · split
      · refine c.trans (c.trans (c.link _ p ?_) (c.takeQueued _ _)) (ih _)
        exact Nat.le_refl _
      · exact c.refl p

theorem serve (p : Blocks) : R p (serve p) := c.serveUpTo _ p

theorem joinQueue (q : Queued) (p : Blocks) : R p (joinQueue q p) := by
  unfold Machine.joinQueue
  split
  · exact c.link _ p (Nat.le_refl _)
  · exact c.reply _ p

theorem checkFrame (q : Queued) (p : Blocks) : R p (checkFrame q p) := by
  unfold Machine.checkFrame
  split
  · exact c.takeQueued q p
  · exact c.takeQueued q p
  · exact c.joinQueue q p
  · split
    · exact c.takeRequest _ _ _ p
    · exact c.joinQueue q p

theorem arrive (q : Queued) (p : Blocks) : R p (arrive q p) := by
  unfold Machine.arrive
  split
  · exact c.link _ p (Nat.le_refl _)
  · split
    · exact c.joinQueue q p
    · exact c.checkFrame q p

theorem arriveRequest (tag : Byte) (r : Request) (p : Blocks) : R p (arriveRequest tag r p) := c.arrive _ p

theorem rejectFrame (cause : FrameCause) (p : Blocks) : R p (rejectFrame cause p) := by
  unfold Machine.rejectFrame
  split
  · exact c.link _ p (Nat.le_refl _)
  · exact c.reply _ p

theorem completeFrame (len : Nat) (got : List Byte) (p : Blocks) : R p (completeFrame len got p) := by
  unfold Machine.completeFrame
  split
  · split
    · exact c.arrive _ p
    · exact c.rejectFrame _ p
  · exact c.rejectFrame _ p

theorem setAssembler (a : Assembler) (p : Blocks) : R p (setAssembler a p) := c.link _ p (Nat.le_refl _)

theorem receiveByte (b : Byte) (p : Blocks) : R p (receiveByte b p) := by
  unfold Machine.receiveByte
  split
  · split
    · exact c.setAssembler _ p
    · exact c.refl p
  · split
    · exact c.setAssembler _ p
    · exact c.trans (c.setAssembler _ p) (c.rejectFrame _ _)
  · split
    · exact c.setAssembler _ p
    · exact c.trans (c.setAssembler _ p) (c.completeFrame _ _ _)

theorem frameGap (p : Blocks) : R p (frameGap p) := by
  unfold Machine.frameGap
  split
  · exact c.refl p
  · exact c.trans (c.setAssembler _ p) (c.rejectFrame _ _)
  · exact c.trans (c.setAssembler _ p) (c.rejectFrame _ _)

theorem transmit (p : Blocks) : R p (transmit p) := by
  unfold Machine.transmit
  split
  · exact c.refl p
  · exact c.link _ p (Nat.le_refl _)
  · rename_i n ns h
    refine c.link _ p ?_
    rw [h]; exact Nat.le_succ _
  · exact c.refl p

theorem frameSent (p : Blocks) : R p (frameSent p) := c.link _ p (Nat.le_refl _)

theorem refill (p : Blocks) : R p (refill p) := by
  unfold Machine.refill
  split
  · exact c.refl p
  · exact c.trans (c.transmit p) (c.serve _)

theorem finish (p : Blocks) : R p (finish p) := c.trans (c.trans (c.serve p) (c.refill _)) (c.transmit _)

/-! ### The show tick -/

theorem tickInstant (p : Blocks) : R p (tickInstant p) :=
  c.trans (c.trans (c.trans (c.trans (c.hand _ p) (c.house _ _ rfl)) (c.rearms _ _ rfl)) (c.rests _ _)) (c.slots _ _)

theorem putDown (t : TickTaker) (p : Blocks) : R p (putDown t p) := c.hand _ p

theorem takerEvents (ts : List TickTaker) (p : Blocks) : R p (takerEvents ts p) := by
  refine c.fold _ (fun q t => ?_) ts p
  unfold Machine.takerEvent
  split
  · exact c.trans (c.trans (c.putDown t q) (c.takeTick t _)) (c.finish _)
  · exact c.refl q

theorem nextInstant (p : Blocks) : R p (nextInstant p) :=
  c.trans (c.trans (c.takerEvents allTakers p) (c.tickInstant _)) (c.finish _)

theorem showTick (o : TickOrder) (p : Blocks) : R p (showTick o p) := by
  unfold Machine.showTick
  refine c.trans ?_ (c.takerEvents _ _)
  split
  · exact c.nextInstant p
  · exact c.refl p

end Edits

/-! ### The conditions -/

theorem queueEdits : Edits (fun p q => QueueFits p → QueueFits q) where
  toWider := queueKept
  settings _ _ _ h := h
  flag _ _ h := h
  link _ _ _ h := h
  store _ _ _ h := h
  runner _ _ _ h := h
  level _ _ h := h
  resetNodes _ h := h
  clearSources _ h := h
  hand _ _ h := h
  begins _ _ := ⟨List.Pairwise.nil, Nat.zero_le _⟩

theorem noticesEdits : Edits (fun p q => NoticesFit p → NoticesFit q) where
  toWider := noticesKept
  settings _ _ _ h := h
  flag _ _ h := h
  link _ _ hf h := Nat.le_trans hf h
  store _ _ _ h := h
  runner _ _ _ h := h
  level _ _ h := h
  resetNodes _ h := h
  clearSources _ h := h
  hand _ _ h := h
  begins _ _ := Nat.zero_le _

theorem stacksEdits : Edits (fun p q => StacksSound p → StacksSound q) where
  toWider := stacksKept
  settings _ _ hs h := ⟨⟨hs h.1.1, h.1.2.1, h.1.2.2.1, h.1.2.2.2⟩, h.2⟩
  flag _ _ h := h
  link _ _ _ h := h
  store _ _ hs h := ⟨hs h.1, h.2⟩
  runner _ _ _ h := h
  level _ _ h := h
  resetNodes _ h := h
  clearSources _ h := h
  hand _ _ h := h
  begins p h := by
    refine ⟨⟨?_, h.1.2.1, h.1.2.2.1, fun j e => by cases e⟩, fun es hes => by rw [mem_replicate _ _ hes]; exact List.Pairwise.nil⟩
    intro sh hsh
    have := mem_replicate _ _ hsh
    cases this

theorem sourcesSound_fresh (p : Blocks) (h : p.trigger = TriggerUnit.initial) : SourcesSound p := by
  unfold SourcesSound PendingIsArmed AlarmClearsPending
  rw [h]
  exact ⟨fun w hw _ => by rw [mem_replicate _ _ hw]; rfl, fun _ w hw => by rw [mem_replicate _ _ hw]; rfl⟩

theorem sourcesEdits : Edits (fun p q => SourcesSound p → SourcesSound q) where
  toWider := sourcesKept
  settings _ _ _ h := h
  flag i p h := sourcesSound_write i _ (fun hp => by cases hp) (fun _ => rfl) h
  link _ _ _ h := h
  store _ _ _ h := h
  runner _ _ _ h := h
  level _ _ h := h
  resetNodes _ h := h
  clearSources p _ := sourcesSound_clearSources p
  hand _ _ h := h
  begins p _ := sourcesSound_fresh _ rfl

theorem failuresEdits : Edits (fun p q => FailuresFit p → FailuresFit q) where
  toWider := failuresKept
  settings _ _ _ h := h
  flag _ _ h := h
  link _ _ _ h := h
  store _ _ _ h := h
  runner _ _ _ h := h
  level _ _ h := h
  resetNodes _ _ := fun r hr => by rw [mem_replicate _ _ hr]; exact Nat.zero_le 3
  clearSources _ h := h
  hand _ _ h := h
  begins _ _ := fun r hr => by rw [mem_replicate _ _ hr]; exact Nat.zero_le 3

end Sys2Proof.Machine
end

