-- ==== Sys2Proof/Laws/Taking.lean ====
section
/-! SUPPORT. A request that arrives while the part is ready is taken at that event: the event is the request's effect, then one look of the transmitter. -/

namespace Sys2Proof.Machine

/-! ### A wider relation from a narrower one -/

theorem Wider.mono {R S : Blocks → Blocks → Prop} (c : Wider R) (le : ∀ {p q}, R p q → S p q)
    (trans : ∀ {p q r}, S p q → S q r → S p r) (write : ∀ f p, S p (setForesight f p)) : Wider S where
  refl p := le (c.refl p)
  trans := trans
  notice n p := le (c.notice n p)
  slot k r p h := le (c.slot k r p h)
  fill k r p := le (c.fill k r p)
  leave k p := le (c.leave k p)
  groups gs p := le (c.groups gs p)
  note k p h := le (c.note k p h)
  foreseen := Closed.foreseen_of trans write
  rest i s p := le (c.rest i s p)
  wait w k p := le (c.wait w k p)
  off ks p := le (c.off ks p)
  forget k p := le (c.forget k p)
  wipe p := le (c.wipe p)
  push k r i sh p h1 h2 := le (c.push k r i sh p h1 h2)
  enters t p h := le (c.enters t p h)
  displaces t k p h1 h2 := le (c.displaces t k p h1 h2)
  head p := le (c.head p)
  take i t p := le (c.take i t p)
  mark i d p h1 h2 := le (c.mark i d p h1 h2)
  idle i p := le (c.idle i p)
  rearms f p h := le (c.rearms f p h)
  pointer n x p := le (c.pointer n x p)
  line l f p := le (c.line l f p)
  gallery g f p := le (c.gallery g f p)
  law ch f p := le (c.law ch f p)
  house f p h := le (c.house f p h)
  alarm a p h := le (c.alarm a p h)
  orders p := le (c.orders p)
  time f p h := le (c.time f p h)
  rests f p := le (c.rests f p)
  slots f p := le (c.slots f p)
  restIdle i p := le (c.restIdle i p)
  empties p := le (c.empties p)
  discard f p := le (c.discard f p)
  job j p := le (c.job j p)
  polls n p := le (c.polls n p)
  node n r p h := le (c.node n r p h)
  last ch f p h := le (c.last ch f p h)

/-- What a queued request leaves as it was: the takers with a tick in hand, the store but for the settings, the assembler, the frame being sent, the overrun flag, and an empty request queue with the replies made. -/
structure AskFrame (p q : Blocks) : Prop where
  inHand : q.time.inHand = p.time.inHand
  areaA : q.store.areaA = p.store.areaA
  areaB : q.store.areaB = p.store.areaB
  note : q.store.note = p.store.note
  save : q.store.save = p.store.save
  loading : q.store.loading = p.store.loading
  assembler : q.link.assembler = p.link.assembler
  transmitting : q.link.transmitting = p.link.transmitting
  overrun : q.link.overrun = p.link.overrun
  freeCount : q.link.freeCount = p.link.freeCount
  total : q.link.replies.length + q.link.requests.length = p.link.replies.length + p.link.requests.length
  fewer : q.link.requests.length ≤ p.link.requests.length
  none : p.link.requests = [] → q.link.requests = [] ∧ q.link.replies = p.link.replies

theorem EventFrame.toAsk {p q : Blocks} (h : EventFrame p q) : AskFrame p q :=
  ⟨h.inHand, by rw [h.store], by rw [h.store], by rw [h.store], by rw [h.store], by rw [h.store], h.assembler, h.transmitting, h.overrun,
    h.freeCount, h.total, h.fewer, h.none⟩

theorem AskFrame.trans {p q r : Blocks} (a : AskFrame p q) (b : AskFrame q r) : AskFrame p r :=
  ⟨b.inHand.trans a.inHand, b.areaA.trans a.areaA, b.areaB.trans a.areaB, b.note.trans a.note, b.save.trans a.save, b.loading.trans a.loading,
    b.assembler.trans a.assembler, b.transmitting.trans a.transmitting, b.overrun.trans a.overrun, b.freeCount.trans a.freeCount,
    b.total.trans a.total, Nat.le_trans b.fewer a.fewer,
    fun h => ⟨(b.none (a.none h).1).1, (b.none (a.none h).1).2.trans (a.none h).2⟩⟩

/-- Every queued request leaves everything in `AskFrame` as it was, until its reply is made. -/
theorem askFrame : Asks AskFrame where
  toWider := eventFrame.mono EventFrame.toAsk AskFrame.trans (fun _ _ => EventFrame.toAsk (by apply EventFrame.of_eq <;> rfl))
  settings _ _ _ := ⟨rfl, rfl, rfl, rfl, rfl, rfl, rfl, rfl, rfl, rfl, rfl, Nat.le_refl _, fun h => ⟨h, rfl⟩⟩
  flag _ _ := EventFrame.toAsk (by apply EventFrame.of_eq <;> rfl)

/-! ### Serving -/

theorem serve_empty {p : Blocks} (h : p.link.requests = []) : serve p = p := by unfold serve; rw [h]; rfl

theorem serve_stuck {p : Blocks} (h : mayTake p = false) : serve p = p := by
  unfold serve
  cases p.link.requests.length with
  | zero => rfl
  | succ n =>
    unfold serveUpTo
    split
    · rfl
    · rw [h]; rfl

@[simp] theorem transmit_requests (p : Blocks) : (transmit p).link.requests = p.link.requests := by
  unfold transmit; split <;> rfl

@[simp] theorem transmit_store (p : Blocks) : (transmit p).store = p.store := by unfold transmit; split <;> rfl
@[simp] theorem transmit_map (p : Blocks) : (transmit p).map = p.map := by unfold transmit; split <;> rfl
@[simp] theorem transmit_runner (p : Blocks) : (transmit p).runner = p.runner := by unfold transmit; split <;> rfl
@[simp] theorem transmit_bus (p : Blocks) : (transmit p).bus = p.bus := by unfold transmit; split <;> rfl
@[simp] theorem transmit_trigger (p : Blocks) : (transmit p).trigger = p.trigger := by unfold transmit; split <;> rfl
@[simp] theorem transmit_level (p : Blocks) : (transmit p).level = p.level := by unfold transmit; split <;> rfl
@[simp] theorem transmit_time (p : Blocks) : (transmit p).time = p.time := by unfold transmit; split <;> rfl
@[simp] theorem transmit_house (p : Blocks) : (transmit p).house = p.house := by unfold transmit; split <;> rfl
@[simp] theorem transmit_assembler (p : Blocks) : (transmit p).link.assembler = p.link.assembler := by unfold transmit; split <;> rfl
@[simp] theorem transmit_overrun (p : Blocks) : (transmit p).link.overrun = p.link.overrun := by unfold transmit; split <;> rfl

/-- With nothing waiting in the request queue, an event comes to its end. -/
theorem finish_empty {p : Blocks} (h : p.link.requests = []) : finish p = transmit p := by
  unfold finish refill
  rw [serve_empty h, if_pos (by rw [h]; rfl)]

/-- A second look finds the transmitter busy, or nothing waiting (R177). -/
theorem transmit_transmit (p : Blocks) : transmit (transmit p) = transmit p := by
  obtain ⟨s, m, r, b, t, l, ti, ho, ⟨a, rq, rp, n, tr, lo, ov, f⟩⟩ := p
  cases tr with
  | some x => rfl
  | none => cases rp with
    | cons x xs => rfl
    | nil => cases n <;> rfl

/-- With requests waiting that may not be taken, an event ends with one look of the transmitter. -/
theorem finish_stuck {p : Blocks} (hm : ∀ q : Blocks, q.store = p.store → mayTake q = false) :
    finish p = transmit p := by
  have ht : serve (transmit p) = transmit p := serve_stuck (hm _ (transmit_store p))
  unfold finish refill
  rw [serve_stuck (hm p rfl), ht]
  split
  · rfl
  · exact transmit_transmit p

theorem requests_nil_eta {p : Blocks} (h : p.link.requests = []) : modLink (fun l => { l with requests := [] }) p = p := by
  obtain ⟨s, m, r, b, t, l, ti, ho, li⟩ := p
  obtain ⟨a, rq, rp, n, tr, lo, ov, f⟩ := li
  cases h
  rfl

/-! ### Taking -/

theorem EventFrame.resetHouse (p : Blocks) : EventFrame p (resetHouse p) := EventFrame.of_eq rfl rfl

theorem EventFrame.resetLevel (p : Blocks) : EventFrame p (resetLevel p) := EventFrame.of_eq rfl rfl

theorem EventFrame.clearSources (p : Blocks) : EventFrame p (clearSources p) := EventFrame.of_eq rfl rfl

theorem EventFrame.resetNodes (p : Blocks) : EventFrame p (resetNodes p) := EventFrame.of_eq rfl rfl

theorem EventFrame.freeAll (p : Blocks) : EventFrame p (freeAll p) := EventFrame.of_eq rfl rfl

theorem EventFrame.afresh (source : TimeSource) (p : Blocks) : EventFrame p (modTime (fun u => u.afresh source) p) := EventFrame.of_eq rfl rfl

theorem EventFrame.resetBlocks (p : Blocks) : EventFrame p (resetBlocks p) := by
  have w := eventFrame
  unfold Machine.resetBlocks
  refine w.trans ?_ (EventFrame.afresh _ _)
  refine w.trans ?_ (EventFrame.resetHouse _)
  refine w.trans ?_ (EventFrame.resetLevel _)
  refine w.trans ?_ (EventFrame.clearSources _)
  refine w.trans ?_ (w.pollReferenced _)
  refine w.trans ?_ (w.hushNow _)
  refine w.trans ?_ (EventFrame.resetNodes _)
  refine w.trans ?_ (w.wait _ 0 _)
  refine w.trans ?_ (w.wipe _)
  exact EventFrame.freeAll p

theorem resetPart_requests (tag : Byte) (p : Blocks) : (resetPart tag p).link.requests = [] := by
  have h0 : (putReply (.ok tag resetKind .resetTaken) (overtake p)).link.requests = [] := rfl
  have hb := ((EventFrame.resetBlocks _).none h0).1
  unfold resetPart resetNotices
  rw [putNotice_requests]
  generalize resetBlocks (putReply (.ok tag resetKind .resetTaken) (overtake p)) = q at hb ⊢
  exact hb

/-- The requests that are taken leave an empty request queue empty. -/
theorem takeRequest_requests (tag kind : Byte) (r : Request) (p : Blocks) (h : p.link.requests = []) :
    (takeRequest tag kind r p).link.requests = [] := by
  have c := askFrame
  cases r
  case saveStore => exact h
  case reset =>
    exact resetPart_requests tag p
  case defineShow r => exact ((c.defineShow r p).none h).1
  case appendCues r => exact ((c.appendCues r p).none h).1
  case eraseShow id => exact ((c.eraseShow id p).none h).1
  case readShowHeader id => exact ((c.readHeader id p).none h).1
  case readShowPage id n => exact ((c.readPage id n p).none h).1
  case setChannel r => exact ((c.setChannel r p).none h).1
  case getChannel ch => exact ((c.getChannel ch p).none h).1
  case stopGallery g => exact ((c.stopGallery g p).none h).1
  case startShow id o => exact ((c.start id o p).none h).1
  case stopShow id => exact ((c.stop id p).none h).1
  case release id => exact ((c.release id p).none h).1
  case getSlot k => exact ((c.getSlot k p).none h).1
  case setBus t n => exact ((c.setBus t n p).none h).1
  case getNodes => exact ((c.getNodes p).none h).1
  case setLine r => exact ((c.setLine r p).none h).1
  case setRoute r => exact ((c.setRoute r p).none h).1
  case clearPending b => exact ((c.clearPending b p).none h).1
  case defineSet r => exact ((c.defineSet r p).none h).1
  case startSet n => exact ((c.startSet n p).none h).1
  case getTriggers t n => exact ((c.getTriggers t n p).none h).1
  case clearLevelFlags b => exact ((c.clearLevelFlags b p).none h).1
  case getLevels n => exact ((c.getLevels n p).none h).1
  case setGallery r => exact ((c.setGallery r p).none h).1
  case setLaw r => exact ((c.setLaw r p).none h).1
  case removeLaw ch => exact ((c.removeLaw ch p).none h).1
  case getLaw ch => exact ((c.getLaw ch p).none h).1
  case setTimebase s r => exact ((c.setTimebase s r p).none h).1
  case setTime s d => exact ((c.setTime s d p).none h).1
  case getTime => exact ((c.getTime p).none h).1
  case setEntry r => exact ((c.setEntry r p).none h).1
  case getEntry e => exact ((c.getEntry e p).none h).1
  case closeHouse w => exact ((c.closeHouse w p).none h).1
  case openHouse => exact ((c.openHouse p).none h).1
  case alarmAck => exact ((c.alarmAck p).none h).1
  case resume => exact ((c.resume p).none h).1
  case setAlarm s t => exact ((c.setAlarm s t p).none h).1
  case getStatus => exact h
  case stopAll => exact ((c.stopAll p).none h).1

theorem Ready.mayTake {p : Blocks} (h : Ready p) : mayTake p = true := by
  simp [Machine.mayTake, h.loaded, h.free, h.room]

/-- A request that joins the queue of a ready part is taken. -/
theorem serve_joined {p : Blocks} (h : Ready p) (q : Queued) : serve (joinQueue q p) = takeQueued q p := by
  obtain ⟨s, m, r, b, t, l, ti, ho, li⟩ := p
  obtain ⟨a, rq, rp, n, tr, lo, ov, f⟩ := li
  obtain rfl : rq = [] := h.empty
  refine (if_pos ?_).trans ?_
  · exact h.mayTake
  · exact congrArg (takeQueued q) rfl

/-- A request that arrives while the part is ready is taken at that event (R174, R175, R177). -/
theorem taken_at_arrival (tag : Byte) (r : Request) (p : Blocks) (h : Ready p) :
    finish (arriveRequest tag r p) = transmit (takeRequest tag (kindOfRequest r) r p) := by
  have hroom : ¬ 8 ≤ p.link.replies.length := Nat.not_le.mpr h.room
  have hq := takeRequest_requests tag (kindOfRequest r) r p h.empty
  unfold arriveRequest arrive
  rw [if_neg hroom, h.loaded]
  simp only [Bool.false_eq_true, if_false, checkFrame]
  by_cases hi : requestImmediate r = true
  · rw [if_pos hi, finish_empty hq]
  · rw [if_neg hi]
    have hj := serve_joined h { tag := tag, kind := kindOfRequest r, content := .request r }
    have hq' : (takeQueued { tag := tag, kind := kindOfRequest r, content := .request r } p).link.requests = [] := hq
    unfold finish refill
    rw [hj, if_pos (List.isEmpty_iff.mpr hq')]
    rfl

/-- A command that is a request, on a state that is ready. -/
theorem happens_request (tag : Byte) (r : Request) (s : State) (h : Ready s.part) :
    happens (arriveRequest tag r) s = .next { s with part := transmit (takeRequest tag (kindOfRequest r) r s.part) } := by
  unfold happens
  rw [taken_at_arrival tag r s.part h]

/-- An event whose effect keeps an empty request queue empty, on a state where it is empty. -/
theorem happens_event {f : Blocks → Blocks} (s : State) (h : s.part.link.requests = []) (hf : EventFrame s.part (f s.part)) :
    happens f s = .next { s with part := transmit (f s.part) } := by
  unfold happens
  rw [finish_empty (hf.none h).1]

end Sys2Proof.Machine
end

