-- ==== Sys2Proof/Laws/Offers.lean ====
section
/-! SUPPORT. Offering a transaction changes the queue, the bus, the notices and counts of lost cues, and nothing else (R90 to R94). -/

namespace Sys2Proof.Machine

theorem slotOf_setSlot_self (k : Nat) (r : Option SlotRec) (p : Blocks) (h : k < 16) : slotOf (setSlot k r p) k = r :=
  tget_tset_self _ _ _ h

theorem slotOf_setSlot_ne (k j : Nat) (r : Option SlotRec) (p : Blocks) (h : k ≠ j) : slotOf (setSlot k r p) j = slotOf p j :=
  tget_tset_ne _ _ _ _ h

theorem slotOf_putNotice (n : Notice) (p : Blocks) (k : Nat) : slotOf (putNotice n p) k = slotOf p k := by
  unfold slotOf; rw [putNotice_runner]

theorem OfferFrame.refl (p : Blocks) : OfferFrame p p := ⟨SlotsFrame.refl p, rfl, rfl, rfl, rfl, fun _ => rfl⟩

theorem OfferFrame.trans {p q r : Blocks} (a : OfferFrame p q) (b : OfferFrame q r) : OfferFrame p r :=
  ⟨a.others.trans b.others, b.map.trans a.map, b.restTimers.trans a.restTimers, b.groups.trans a.groups, b.foresight.trans a.foresight,
    fun k => (b.slots k).trans (a.slots k)⟩

theorem OfferFrame.of_eq {p q : Blocks} (h : SlotsFrame p q) (hm : q.map = p.map) (hr : q.runner = p.runner) : OfferFrame p q :=
  ⟨h, hm, by rw [hr], by rw [hr], by rw [hr], fun k => by unfold slotOf; rw [hr]⟩

theorem offerFrame_addSkipped (k : Nat) (p : Blocks) : OfferFrame p (addSkipped k p) := by
  refine ⟨slotsFrame.addSkipped k p, ?_, ?_, ?_, ?_, fun j => ?_⟩
  · unfold addSkipped modSlot; split <;> rfl
  · unfold addSkipped modSlot; split <;> rfl
  · unfold addSkipped modSlot; split <;> rfl
  · unfold addSkipped modSlot; split <;> rfl
  · unfold addSkipped modSlot
    split
    · rfl
    · rename_i r hr
      by_cases hk : k = j
      · subst hk
        rw [slotOf_setSlot_self _ _ _ (slotOf_lt hr), hr]; rfl
      · rw [slotOf_setSlot_ne _ _ _ _ hk]

theorem offerFrame_notice (n : Notice) (p : Blocks) : OfferFrame p (putNotice n p) :=
  OfferFrame.of_eq (slotsFrame.notice n p) (by simp) (by simp)

theorem offerFrame_reportCueLost (t : Transaction) (cause : LostCause) (p : Blocks) : OfferFrame p (reportCueLost t cause p) := by
  unfold reportCueLost
  split
  · split
    · exact OfferFrame.refl p
    · exact (offerFrame_notice _ p).trans (offerFrame_addSkipped _ _)
  · exact OfferFrame.refl p

theorem offerFrame_queue (q : List Transaction) (p : Blocks) : OfferFrame p { p with bus := { p.bus with queue := q } } :=
  OfferFrame.of_eq (by constructor <;> rfl) rfl rfl

theorem offerFrame_enterQueue (t : Transaction) (p : Blocks) : OfferFrame p (enterQueue t p) := by
  unfold enterQueue
  split
  · exact offerFrame_queue _ p
  · split
    · exact OfferFrame.refl p
    · split
      · dsimp only
        split
        · exact offerFrame_queue _ p
        · exact (offerFrame_queue _ p).trans (offerFrame_reportCueLost _ _ _)
      · exact offerFrame_reportCueLost _ _ p

theorem offerFrame_takeHead (p : Blocks) : OfferFrame p (takeHead p) := by
  rcases takeHead_cases p with e | ⟨q, j, e, _⟩
  · rw [e]; exact OfferFrame.refl p
  · rw [e]; exact OfferFrame.of_eq (by constructor <;> rfl) rfl rfl

/-- Everything an offered transaction can do (R90 to R94). -/
theorem offerFrame_offer (t : Transaction) (p : Blocks) : OfferFrame p (offer t p) := by
  unfold offer
  split
  · split
    · exact offerFrame_addSkipped _ p
    · exact OfferFrame.refl p
  · exact (offerFrame_enterQueue t p).trans (offerFrame_takeHead _)

theorem offerFrame_offerChannel (ch : Nat) (kind : TxKind) (cls : ShowClass) (origin cueIndex owner : Option Nat) (p : Blocks) :
    OfferFrame p (offerChannel ch kind cls origin cueIndex owner p) := by
  unfold offerChannel
  split
  · exact OfferFrame.refl p
  · exact offerFrame_offer _ p

theorem offerFrame_fold {α : Type} (f : Blocks → α → Blocks) (h : ∀ q a, OfferFrame q (f q a)) (l : List α) (p : Blocks) :
    OfferFrame p (l.foldl f p) := by
  induction l generalizing p with
  | nil => exact OfferFrame.refl p
  | cons a l ih => exact (h p a).trans (ih (f p a))

theorem offerFrame_offerEach (kind : TxKind) (cls : ShowClass) (chs : List Nat) (p : Blocks) : OfferFrame p (offerEach kind cls chs p) :=
  offerFrame_fold _ (fun q _ => offerFrame_offerChannel _ _ _ _ _ _ q) chs p

theorem offerFrame_offerPrepares (k : Nat) (cls : ShowClass) (chs : List (Nat × Nat)) (p : Blocks) :
    OfferFrame p (offerPrepares k cls chs p) :=
  offerFrame_fold _ (fun q _ => offerFrame_offerChannel _ _ _ _ _ _ q) chs p

/-- The show of a slot through offers. -/
theorem OfferFrame.showId {p q : Blocks} (h : OfferFrame p q) (k : Nat) :
    (slotOf q k).map (fun r => r.showId) = (slotOf p k).map (fun r => r.showId) := by
  have := congrArg (Option.map (fun r : SlotRec => r.showId)) (h.slots k)
  simpa only [Option.map_map, Function.comp_def, SlotRec.lossless] using this

end Sys2Proof.Machine
end

