-- ==== Sys2Proof/Laws/Endings.lean ====
section
/-! SUPPORT. What no ending, regain or firing does: fill a FREE slot, or put an entry of a slot where it had none; and that an ending with nothing waiting leaves the slot FREE and without entries. -/

namespace Sys2Proof.Machine

theorem ownersOf_tmap {p q : Blocks} (f : List StackEntry → List StackEntry) (hf : f [] = [])
    (hm : q.map.owners = tmap f p.map.owners) (ch : Nat) : ownersOf q ch = f (ownersOf p ch) := by
  unfold ownersOf
  rw [hm]
  by_cases h : ch < 128
  · exact tget_tmap f _ ch h
  · rw [tget_of_le _ _ (Nat.le_of_not_lt h), tget_of_le _ _ (Nat.le_of_not_lt h)]; exact hf.symm

/-- With no slot waiting, none waits after; FREE slots are FREE after; and each entry stands where its slot had one. -/
structure Quieter (p q : Blocks) : Prop where
  wait : p.map.waitOrder = [] → q.map.waitOrder = []
  free : ∀ k, slotOf p k = none → slotOf q k = none
  entries : ∀ ch e, e ∈ ownersOf q ch → ∃ e' ∈ ownersOf p ch, e'.slot = e.slot

theorem Quieter.refl (p : Blocks) : Quieter p p := ⟨fun h => h, fun _ h => h, fun _ e h => ⟨e, h, rfl⟩⟩

theorem Quieter.trans {p q r : Blocks} (a : Quieter p q) (b : Quieter q r) : Quieter p r :=
  ⟨fun h => b.wait (a.wait h), fun k h => b.free k (a.free k h), fun ch e h => by
    obtain ⟨e1, h1, s1⟩ := b.entries ch e h
    obtain ⟨e2, h2, s2⟩ := a.entries ch e1 h1
    exact ⟨e2, h2, s2.trans s1⟩⟩

theorem Quieter.of_eq {p q : Blocks} (hm : q.map = p.map) (hr : q.runner.slots = p.runner.slots) : Quieter p q :=
  ⟨fun h => by rw [hm]; exact h, fun k h => by unfold slotOf at *; rw [hr]; exact h,
    fun ch e h => by unfold ownersOf at *; rw [hm] at h; exact ⟨e, h, rfl⟩⟩

theorem quieter : Core Quieter where
  refl := Quieter.refl
  trans := Quieter.trans
  notice n p := Quieter.of_eq (by simp) (by simp)
  slot k r p h := ⟨fun h => h, fun j hj => by
    by_cases hk : k = j
    · subst hk
      rcases h with h | rfl
      · exact absurd hj h
      · by_cases hl : k < 16
        · exact slotOf_setSlot_self k none p hl
        · exact slotOf_of_le _ _ (Nat.le_of_not_lt hl)
    · rw [slotOf_setSlot_ne _ _ _ _ hk]; exact hj, fun _ e h => ⟨e, h, rfl⟩⟩
  groups _ _ := Quieter.of_eq rfl rfl
  note _ _ _ := Quieter.of_eq rfl rfl
  rest _ _ _ := Quieter.of_eq rfl rfl
  leave _ p := ⟨fun h => by simp [h], fun _ h => h, fun _ e h => ⟨e, h, rfl⟩⟩
  off ks p := ⟨fun h => h, fun _ h => h, fun ch e h => by
    rw [ownersOf_tmap (p := p) _ rfl (takeOff_owners ks p)] at h
    exact ⟨e, (List.mem_filter.mp h).1, rfl⟩⟩
  forget k p := ⟨fun h => h, fun _ h => h, fun ch e h => by
    rw [ownersOf_tmap (p := p) _ rfl (clearLast_owners k p)] at h
    obtain ⟨e', h', rfl⟩ := List.mem_map.mp h
    exact ⟨e', h', by split <;> rfl⟩⟩
  wipe p := ⟨fun _ => rfl, fun _ h => h, fun ch e h => by
    have : ownersOf (clearStacks p) ch = [] := by
      by_cases hc : ch < 128
      · exact tget_replicate _ _ hc
      · exact tget_of_le _ _ (Nat.le_of_not_lt hc)
    rw [this] at h; cases h⟩
  enters _ _ _ := Quieter.of_eq rfl rfl
  displaces _ _ _ _ _ := Quieter.of_eq rfl rfl
  head p := by rcases takeHead_cases p with e | ⟨q, j, e, t, ht⟩ <;> rw [e] <;> exact Quieter.of_eq rfl rfl

/-- With no slot waiting the pending scan does nothing (R35). -/
theorem pendingScan_empty {p : Blocks} (h : p.map.waitOrder = []) : pendingScan p = p := by
  unfold pendingScan
  rw [h]; rfl

/-- A removal leaves no entry of its slots, where the scan after it finds none waiting (R32). -/
theorem removal_quiet {p : Blocks} (ks : List Nat) (hw : p.map.waitOrder = []) :
    Quieter p (removal pendingScan ks p) ∧ ∀ ch e, e ∈ ownersOf (removal pendingScan ks p) ch → e.slot ∉ ks := by
  unfold removal
  split
  · rename_i h
    dsimp only
    have q1 := quieter.trans (quieter.off ks p) (quieter.settleGroups (takeOff ks p))
    have q2 := quieter.fold (fun q (c : Nat × ShowClass) => exposeChannel c.1 c.2 q) (fun q _ => quieter.exposeChannel _ _ q) (exposedBy p ks)
      (settleGroups (takeOff ks p))
    have q3 := quieter.fold (fun q k => regainIfTop k q) (fun q k => quieter.regainIfTop k q) slotNumbers
      ((exposedBy p ks).foldl (fun q c => exposeChannel c.1 c.2 q) (settleGroups (takeOff ks p)))
    have qa := q1.trans (q2.trans q3)
    have qb := (quieter.settleGroups (takeOff ks p)).trans (q2.trans q3)
    rw [pendingScan_empty (qa.wait hw)]
    refine ⟨qa, fun ch e he => ?_⟩
    obtain ⟨e', he', hs⟩ := qb.entries ch e he
    rw [ownersOf_tmap (p := p) _ rfl (takeOff_owners ks p)] at he'
    have := (List.mem_filter.mp he').2
    rw [← hs]
    simpa using this
  · rename_i h
    have q := quieter.settleGroups p
    refine ⟨q, fun ch e he hk => h ?_⟩
    obtain ⟨e', he', hs⟩ := q.entries ch e he
    have hc : ch < 128 := by
      by_contra hc
      rw [ownersOf, tget_of_le _ _ (Nat.le_of_not_lt hc)] at he'
      cases he'
    unfold holdEntries
    rw [List.any_eq_true]
    refine ⟨_, tget_mem p.map.owners ch hc, ?_⟩
    rw [List.any_eq_true]
    exact ⟨e', he', by rw [hs]; simpa using hk⟩

theorem slotOf_modSlot_ne (k j : Nat) (f : SlotRec → SlotRec) (p : Blocks) (h : k ≠ j) : slotOf (modSlot k f p) j = slotOf p j := by
  unfold modSlot
  split
  · rfl
  · exact slotOf_setSlot_ne _ _ _ _ h

/-- A slot is FREE once it has ended (R66). -/
theorem finishSlot_free (k : Nat) (why : EndReason) (p : Blocks) : slotOf (finishSlot k why p) k = none := by
  unfold finishSlot
  split
  · assumption
  · show slotOf (setSlot k none _) k = none
    by_cases hl : k < 16
    · exact slotOf_setSlot_self _ _ _ hl
    · exact slotOf_of_le _ _ (Nat.le_of_not_lt hl)

/-- A FREE slot stays FREE through the endings of others. -/
theorem endOne_quiet (k : Nat) (why : EndReason) (p : Blocks) : Quieter p (endOne k why p) := quieter.endOne k why p

/-- The slot of an ending leaves no entry, where nothing waits, and is FREE (R32, R66). -/
theorem endSlotsWith_quiet (k : Nat) (why : EndReason) (p : Blocks) (hw : p.map.waitOrder = []) :
    slotOf (endSlotsWith pendingScan [(k, why)] p) k = none ∧
      (∀ ch e, e ∈ ownersOf (endSlotsWith pendingScan [(k, why)] p) ch → e.slot ≠ k) ∧ Quieter p (endSlotsWith pendingScan [(k, why)] p) := by
  unfold endSlotsWith
  dsimp only
  simp only [List.map_cons, List.map_nil, List.cons_append, List.nil_append, List.foldl_cons]
  generalize (tiedTo p [k]).map (fun j => (j, EndReason.leader)) = tied
  have q0 : Quieter p (endOne k why p) := quieter.endOne k why p
  have hf : slotOf (endOne k why p) k = none := finishSlot_free k why _
  have q1 := quieter.fold (fun q (e : Nat × EndReason) => endOne e.1 e.2 q) (fun q _ => quieter.endOne _ _ q) tied (endOne k why p)
  obtain ⟨q2, hn⟩ := removal_quiet (k :: tied.map (fun e => e.1)) ((q0.trans q1).wait hw)
  refine ⟨q2.free k (q1.free k hf), fun ch e he hk => hn ch e he (by simp [hk]), (q0.trans q1).trans q2⟩

/-- The same, with the endings foreseen. -/
theorem endSlots_quiet (k : Nat) (why : EndReason) (p : Blocks) (hw : p.map.waitOrder = []) :
    slotOf (endSlots [(k, why)] p) k = none ∧ (∀ ch e, e ∈ ownersOf (endSlots [(k, why)] p) ch → e.slot ≠ k) ∧
      Quieter p (endSlots [(k, why)] p) := by
  obtain ⟨free, none, quiet⟩ := endSlotsWith_quiet k why (setForesight (.known (endingsOf (endSlotsWith pendingScan [(k, why)]) p)) p) hw
  exact ⟨free, none, ⟨quiet.wait, quiet.free, quiet.entries⟩⟩

end Sys2Proof.Machine
end

