-- ==== Sys2Proof/Laws/Replies.lean ====
section
/-! SUPPORT. From what a request or an event does to the part to what its command answers. -/

namespace Sys2Proof.Machine

/-- A request's command is the arrival of its request. -/
theorem exec_arrival {c : Instr} {tag : Byte} {r : Request} (h : arrivalOf c = some (tag, r)) (s : State) :
    exec c s = happens (arriveRequest tag r) s := by
  cases c <;> simp only [arrivalOf, Option.some.injEq, Prod.mk.injEq, reduceCtorEq] at h <;> obtain ⟨rfl, rfl⟩ := h <;> rfl

/-- A request taken at its arrival, by its outcome. -/
theorem repliesOk_of {c : Instr} {tag kind : Byte} {r : Request} {s : State} {body : OkBody} {p : Blocks} (h : Ready s.part)
    (hc : arrivalOf c = some (tag, r)) (ht : takeRequest tag (kindOfRequest r) r s.part = answerWith tag kind (.ok body, p)) :
    exec c s = repliesOk s tag kind body p := by
  rw [exec_arrival hc, happens_request tag r s h, ht]; rfl

/-- A request refused at its arrival. -/
theorem repliesRefused_of {c : Instr} {tag kind : Byte} {r : Request} {s : State} {why : Reason} (h : Ready s.part)
    (hc : arrivalOf c = some (tag, r)) (ht : takeRequest tag (kindOfRequest r) r s.part = answerWith tag kind (.refused why, s.part)) :
    exec c s = repliesRefused s tag kind why := by
  rw [exec_arrival hc, happens_request tag r s h, ht]; rfl

/-- Two requests of one kind, taken at their arrival with one outcome, answer alike. -/
theorem replies_alike {c d : Instr} {tag : Byte} {r q : Request} {s : State} (h : Ready s.part)
    (hc : arrivalOf c = some (tag, r)) (hd : arrivalOf d = some (tag, q))
    (ht : takeRequest tag (kindOfRequest r) r s.part = takeRequest tag (kindOfRequest q) q s.part) : exec c s = exec d s := by
  rw [exec_arrival hc, exec_arrival hd, happens_request tag r s h, happens_request tag q s h, ht]

/-- An immediate request taken at its arrival, with nothing else taken at that event (R174). -/
theorem prompt_taken {c : Instr} {tag : Byte} {r : Request} {s : State} (h : Prompt s.part) (hc : arrivalOf c = some (tag, r))
    (hi : requestImmediate r = true) (hn : s.part.link.requests = [] → (takeRequest tag (kindOfRequest r) r s.part).link.requests = [])
    (hs : (takeRequest tag (kindOfRequest r) r s.part).store = s.part.store) :
    exec c s = becomes s (transmit (takeRequest tag (kindOfRequest r) r s.part)) := by
  have hroom : ¬ 8 ≤ s.part.link.replies.length := Nat.not_le.mpr h.room
  rw [exec_arrival hc]
  unfold happens arriveRequest arrive
  rw [if_neg hroom, h.loaded]
  simp only [Bool.false_eq_true, if_false, checkFrame, hi, if_true]
  rcases h.still with he | hv
  · rw [finish_empty (hn he)]; rfl
  · have hm : ∀ p : Blocks, p.store = s.part.store → mayTake p = false := by
      intro p hp
      unfold mayTake
      rw [hp]
      cases hsv : s.part.store.save with
      | none => exact absurd hsv hv
      | some j => simp
    rw [finish_stuck (fun q hq => hm q (hq.trans hs))]
    rfl

/-- An event on a part with nothing waiting in the request queue. -/
theorem becomes_of {f : Blocks → Blocks} {s : State} {p : Blocks} (h : s.part.link.requests = []) (hf : f s.part = p)
    (he : EventFrame s.part p) : happens f s = becomes s (transmit p) := by
  subst hf
  exact happens_event s h he

end Sys2Proof.Machine
end

