-- ==== Sys2Proof/Laws/Steps.lean ====
section
/-! SUPPORT. What every command can do to the part: a relation kept by each update that the commands are made of is kept by every command and every step. -/

namespace Sys2Proof.Machine

/-- An event whose effect keeps a relation keeps it whole. -/
theorem Edits.happens {R : Blocks → Blocks → Prop} (c : Edits R) {f : Blocks → Blocks} {s t : State} (h : Machine.happens f s = .next t)
    (hf : R s.part (f s.part)) : R s.part t.part := by
  cases h
  exact c.trans hf (c.finish _)

/-- Every command keeps such a relation between the part before and after it. -/
theorem Edits.exec {R : Blocks → Blocks → Prop} (c : Edits R) (i : Instr) (s t : State) (h : Machine.exec i s = .next t) :
    R s.part t.part := by
  cases ha : arrivalOf i with
  | some a =>
    obtain ⟨tag, r⟩ := a
    exact c.happens (exec_arrival ha s ▸ h) (c.arriveRequest tag r _)
  | none =>
    cases i
    case powerUp => exact c.happens h (c.begins _)
    case resetLinePulse => exact c.happens h (c.resetLine _)
    case settingsLoadEnd => exact c.happens h (c.endLoad _)
    case receiveByte b => exact c.happens h (c.receiveByte b _)
    case frameGap => exact c.happens h (c.frameGap _)
    case transmitFrameEnd => exact c.happens h (c.frameSent _)
    case saveWriteEnd v => exact c.happens h (c.endSave v _)
    case showTick o => cases h; exact c.showTick o _
    case primeTimeout k => exact c.happens h (c.primeExpires k _)
    case holdTimeout k => exact c.happens h (c.holdExpires k _)
    case restTimerExpiry n => exact c.happens h (c.restIdle n _)
    case rearmTimerExpiry n => exact c.happens h (c.rearmExpires n _)
    case pollingRound => exact c.happens h (c.pollNow _)
    case escalation => exact c.happens h (c.escalationExpires _)
    case dayClockAdvance => exact c.happens h (c.dayAdvance _)
    case syncPulse t => exact c.happens h (c.syncPulse t _)
    case syncLost => exact c.happens h (c.syncLoss _)
    case lineSample l v => exact c.happens h (c.lineSample l v _)
    case repeatEvent l => exact c.happens h (c.repeatEvent l _)
    case levelSample g n => exact c.happens h (c.levelSample g n _)
    case alarmLineSample a => exact c.happens h (c.alarmSample a _)
    case nodeReply b => exact c.happens h (c.nodeReply b _)
    case replyTimeout => exact c.happens h (c.replyTimeout _)
    case hushSent => exact c.happens h (c.hushSent _)
    all_goals cases ha

/-- Every step keeps such a relation between the part before and after it. -/
theorem Edits.step {R : Blocks → Blocks → Prop} (c : Edits R) (s t : State) (h : Machine.step s = .next t) : R s.part t.part := by
  unfold Machine.step at h
  split at h
  · cases h; exact c.refl _
  · rename_i i rest _
    exact c.exec i { s with pending := rest } t h

end Sys2Proof.Machine
end

