-- ==== Sys2Proof/Laws/SlotFacts.lean ====
section
/-! SUPPORT. Reading and writing one slot's record, and one step of firing cues. -/

namespace Sys2Proof.Machine

theorem tset_tset {α : Type} {n : Nat} (t : Table α n) (i : Nat) (v w : α) : tset (tset t i v) i w = tset t i w := by
  simp [tset]

/-- The last write of a slot's record stands. -/
theorem setSlot_setSlot (k : Nat) (a b : Option SlotRec) (p : Blocks) : setSlot k b (setSlot k a p) = setSlot k b p := by
  simp only [setSlot, tset_tset]

theorem modSlot_some {p : Blocks} {k : Nat} {r : SlotRec} (h : slotOf p k = some r) (f : SlotRec → SlotRec) :
    modSlot k f p = setSlot k (some (f r)) p := by
  unfold modSlot; rw [h]

theorem modSlot_none {p : Blocks} {k : Nat} (h : slotOf p k = none) (f : SlotRec → SlotRec) : modSlot k f p = p := by
  unfold modSlot; rw [h]

theorem slotShow_of {p : Blocks} {k : Nat} {r : SlotRec} {sh : ShowRecord} (h : slotOf p k = some r) (hs : showOf p r.showId = some sh) :
    slotShow p k = some (r, sh) := by
  unfold slotShow; simp only [h, hs]

/-- A write of a slot's record is read back. -/
theorem slotOf_write {p : Blocks} {k : Nat} {r : SlotRec} (h : slotOf p k = some r) (v : Option SlotRec) : slotOf (setSlot k v p) k = v :=
  slotOf_setSlot_self k v p (slotOf_lt h)

/-- What fires does not depend on how the rest of the part came about: the cues from the slot's own pointer. -/
theorem fireDue_cues {p : Blocks} {k : Nat} {r : SlotRec} {sh : ShowRecord} (h : slotOf p k = some r) (hs : showOf p r.showId = some sh) :
    fireDue k p = fireCues k sh (sh.cues.drop r.pointer) r.pointer p := by
  unfold fireDue; rw [slotShow_of h hs]

/-- No cue fires from a slot that is not RUNNING. -/
theorem fireCues_still {p : Blocks} {k : Nat} {r : SlotRec} (sh : ShowRecord) (cs : List Cue) (ci : Nat) (h : slotOf p k = some r)
    (hr : r.state ≠ .running) : fireCues k sh cs ci p = p := by
  cases cs with
  | nil => rfl
  | cons c cs => unfold fireCues; rw [h]; simp [hr]

/-- A due cue fires, and then those after it (R56). -/
theorem fireDue_step {p q : Blocks} {k : Nat} {r r' : SlotRec} {sh : ShowRecord} {c : Cue} (h : slotOf p k = some r)
    (hs : showOf p r.showId = some sh) (hc : sh.cues[r.pointer]? = some c) (hr : r.state = .running) (ho : c.offset ≤ r.clock)
    (hq : fireAction k r.pointer sh c.action r p = q) (h' : slotOf q k = some r') (hst : q.store = p.store) (hi : r'.showId = r.showId)
    (hp : r'.pointer = r.pointer + 1) : fireDue k p = fireDue k q := by
  have hs' : showOf q r'.showId = some sh := by unfold showOf; rw [hst, hi]; exact hs
  rw [fireDue_cues h hs, fireDue_cues h' hs', hp]
  obtain ⟨hl, hget⟩ := List.getElem?_eq_some_iff.mp hc
  rw [← List.cons_getElem_drop_succ (h := hl), hget]
  conv => lhs; unfold fireCues
  rw [h]
  simp only [hr, ho, and_self, if_true, hq]

end Sys2Proof.Machine
end

