-- ==== Sys2Proof/Laws/ClaimFacts.lean ====
section
/-! SUPPORT. What the tests of claims, removals and launches say in words of slots, shows and stacks, and what pushing a claim's entries does. -/

namespace Sys2Proof.Machine

theorem showOf_lt {p : Blocks} {id : Nat} {sh : ShowRecord} (h : showOf p id = some sh) : id < 64 := by
  by_contra hc
  have e : showOf p id = none := tget_of_le _ _ (Nat.le_of_not_lt hc)
  rw [e] at h; cases h

/-- The lowest-numbered FREE slot is the one that every lower one is busy before (R46). -/
theorem lowestFree_of {p : Blocks} {k : Nat} (hk : k < 16) (h : slotOf p k = none) (hj : ∀ j < k, slotOf p j ≠ none) :
    lowestFree p = some k := by
  unfold lowestFree slotNumbers
  rw [List.find?_range_eq_some]
  refine ⟨by simp [h], by simpa using hk, fun j hl => ?_⟩
  have := hj j hl
  cases hs : slotOf p j <;> simp_all

theorem lowestFree_none {p : Blocks} (hj : ∀ j < 16, slotOf p j ≠ none) : lowestFree p = none := by
  unfold lowestFree slotNumbers
  rw [List.find?_eq_none]
  intro x hx
  have := hj x (by simpa using hx)
  cases hs : slotOf p x <;> simp_all

/-- A claim succeeds where every listed channel's top entry is of lower class (R28). -/
theorem claimable_iff {p : Blocks} {k : Nat} {r : SlotRec} {sh : ShowRecord} (h : slotOf p k = some r) (hs : showOf p r.showId = some sh) :
    claimable p k = true ↔ ∀ ch ∈ sh.channels, ∀ e, topEntry p ch = some e → e.cls.rank < r.cls.rank := by
  unfold claimable
  rw [slotShow_of h hs]
  simp only [List.all_eq_true]
  constructor
  · intro H ch hc e he
    have := H ch hc
    rw [he] at this
    simpa [ShowClass.below] using this
  · intro H ch hc
    cases he : topEntry p ch with
    | none => rfl
    | some e => simpa [ShowClass.below] using H ch hc e he

/-- The claim a slot holds stands until it enters priming. -/
theorem claimStands_iff (p : Blocks) (k : Nat) :
    claimStands p k = true ↔ ∃ r, slotOf p k = some r ∧ r.state = .priming ∧ r.step = 1 ∧ r.primeTimer = none := by
  unfold claimStands
  cases slotOf p k <;> simp [and_assoc]

theorem atStep2_iff (p : Blocks) (k : Nat) : atStep2 p k = true ↔ ∃ r, slotOf p k = some r ∧ r.state = .priming ∧ r.step = 2 := by
  unfold atStep2
  cases slotOf p k <;> simp

/-- Some entry of the slots stands on some channel's stack. -/
theorem holdEntries_iff (p : Blocks) (ks : List Nat) : holdEntries p ks = true ↔ ∃ ch < 128, ∃ e ∈ ownersOf p ch, e.slot ∈ ks := by
  unfold holdEntries
  rw [List.any_eq_true]
  constructor
  · rintro ⟨es, hes, ha⟩
    rw [Vector.mem_toList_iff] at hes
    obtain ⟨i, hi, rfl⟩ := Vector.getElem_of_mem hes
    rw [List.any_eq_true] at ha
    obtain ⟨e, he, hk⟩ := ha
    exact ⟨i, hi, e, by rw [ownersOf, tget_of_lt _ _ hi]; exact he, by simpa using hk⟩
  · rintro ⟨ch, hc, e, he, hk⟩
    exact ⟨_, tget_mem p.map.owners ch hc, List.any_eq_true.mpr ⟨e, he, by simpa using hk⟩⟩

/-- A channel is exposed where its top entry belongs to one of the slots (R33). -/
theorem mem_exposedBy (p : Blocks) (ks : List Nat) (ch : Nat) (cls : ShowClass) :
    (ch, cls) ∈ exposedBy p ks ↔ ∃ e, topEntry p ch = some e ∧ e.slot ∈ ks ∧ e.cls = cls := by
  unfold exposedBy channelNumbers
  rw [List.mem_filterMap]
  constructor
  · rintro ⟨x, hx, hh⟩
    cases ht : topEntry p x with
    | none => rw [ht] at hh; cases hh
    | some e =>
      rw [ht] at hh
      dsimp only at hh
      split at hh
      · cases hh
        exact ⟨e, ht, by simpa using ‹ks.contains e.slot = true›, rfl⟩
      · cases hh
  · rintro ⟨e, ht, hk, rfl⟩
    refine ⟨ch, ?_, by rw [ht]; simp [hk]⟩
    by_contra hc
    rw [List.mem_range] at hc
    unfold topEntry ownersOf at ht
    rw [tget_of_le _ _ (Nat.le_of_not_lt hc)] at ht
    cases ht

/-- The slots tied to an ending slot (R83). -/
theorem tiedToSlot_iff (p : Blocks) (j k : Nat) : tiedToSlot p j k = true ↔
    ∃ r sh, slotOf p k = some r ∧ showOf p r.showId = some sh ∧ sh.tied = true ∧
      ∃ rj, slotOf p j = some rj ∧ r.origin = .leader j ∧ sh.leader = some rj.showId := by
  unfold tiedToSlot slotShow
  cases hs : slotOf p k with
  | none => simp
  | some r => cases hss : showOf p r.showId with
    | none => simp [hss]
    | some sh => cases hj : slotOf p j with
      | none => simp [hss]
      | some rj => simp [hss]; tauto

theorem mem_tiedTo (p : Blocks) (js : List Nat) (k : Nat) : k ∈ tiedTo p js ↔ k < 16 ∧ k ∉ js ∧ ∃ j ∈ js, tiedToSlot p j k = true := by
  unfold tiedTo slotNumbers
  simp [List.mem_filter]

/-- Leaving a group: the slot's own field and the groups alone (R82). -/
theorem leaveGroup_some {p : Blocks} {k : Nat} {r : SlotRec} (h : slotOf p k = some r) : leaveGroup k p = setSlot k (some { r with group := none })
    (setGroups (p.runner.groups.map (fun g =>
      { g with leaderIn := g.leaderIn && decide (g.leader ≠ k), followers := g.followers.filter (fun f => decide (f ≠ k)) })) p) := by
  have h' : ∀ gs, slotOf (setGroups gs p) k = some r := fun _ => h
  unfold leaveGroup
  exact modSlot_some (h' _) _

/-- Pushing a claim's entries changes the stacks and the entry counter alone, and puts one entry on each channel (R29). -/
theorem pushEntries (k : Nat) (r : SlotRec) (chs : List Nat) (p : Blocks) : ∃ owners uid, p.map.nextUid ≤ uid ∧
    chs.foldl (fun q ch => pushEntry k r ch q) p = { p with map := { p.map with owners := owners, nextUid := uid } } ∧
    (∀ ch, ch ∉ chs → (tget owners ch : List StackEntry) = ownersOf p ch) ∧
    (chs.Nodup → (∀ ch ∈ chs, ch < 128) → ∀ ch ∈ chs, ∃ n, p.map.nextUid ≤ n ∧ n < uid ∧
      tget owners ch = { cls := r.cls, slot := k, showId := r.showId, last := none, uid := n } :: ownersOf p ch) := by
  induction chs generalizing p with
  | nil => exact ⟨p.map.owners, p.map.nextUid, le_refl _, rfl, fun _ _ => rfl, by simp⟩
  | cons c cs ih =>
    obtain ⟨o, u, hu, e, h1, h2⟩ := ih (pushEntry k r c p)
    refine ⟨o, u, Nat.le_of_succ_le hu, by rw [List.foldl_cons, e]; rfl, fun ch hc => ?_, fun hn hl ch hc => ?_⟩
    · rw [h1 ch (fun h => hc (List.mem_cons_of_mem _ h))]
      exact tget_tset_ne _ _ _ _ (fun h => hc (by simp [h]))
    · rw [List.nodup_cons] at hn
      rcases List.mem_cons.mp hc with rfl | hc
      · refine ⟨p.map.nextUid, le_refl _, hu, ?_⟩
        rw [h1 ch hn.1]
        exact tget_tset_self _ _ _ (hl ch (by simp))
      · obtain ⟨n, a, b, d⟩ := h2 hn.2 (fun x hx => hl x (List.mem_cons_of_mem _ hx)) ch hc
        refine ⟨n, Nat.le_of_succ_le a, b, d.trans ?_⟩
        congr 1
        exact tget_tset_ne _ _ _ _ (fun h => hn.1 (h ▸ hc))

end Sys2Proof.Machine
end

