-- ==== Sys2Proof/Laws/Foresight.lean ====
section
/-! SUPPORT. What is foreseen of an action that ends slots: the endings recorded are slots of the sixteen, GO has no part in it, and between actions nothing is foreseen (R82; log entries 16 and 18). -/

namespace Sys2Proof.Machine

/-! ### What a trial run records -/

/-- Where endings are being recorded, those recorded stay, and slots of the sixteen come after them. -/
def Records (p q : Blocks) : Prop := ∀ ks, p.runner.foresight = .recording ks →
  ∃ more, q.runner.foresight = .recording (ks ++ more) ∧ ∀ k ∈ more, k < 16

theorem Records.of_eq {p q : Blocks} (h : q.runner.foresight = p.runner.foresight) : Records p q :=
  fun ks e => ⟨[], by rw [h, e, List.append_nil], fun _ hk => by cases hk⟩

theorem Records.trans {p q r : Blocks} (a : Records p q) (b : Records q r) : Records p r := fun ks e => by
  obtain ⟨m1, e1, l1⟩ := a ks e
  obtain ⟨m2, e2, l2⟩ := b _ e1
  exact ⟨m1 ++ m2, by rw [e2, List.append_assoc], fun k hk => (List.mem_append.mp hk).elim (l1 k) (l2 k)⟩

theorem records : Claims Records where
  refl _ := Records.of_eq rfl
  trans := Records.trans
  notice n p := Records.of_eq (by rw [putNotice_runner])
  slot _ _ _ _ := Records.of_eq rfl
  fill _ _ _ := Records.of_eq rfl
  leave _ _ := Records.of_eq rfl
  groups _ _ := Records.of_eq rfl
  note k p hk ks e := ⟨[k], by simp [noteEnd, e, Foresight.after], fun j hj => by rw [List.mem_singleton.mp hj]; exact hk⟩
  rest _ _ _ := Records.of_eq rfl
  off _ _ := Records.of_eq rfl
  forget _ _ := Records.of_eq rfl
  wipe _ := Records.of_eq rfl
  push k r _ sh p _ _ := by
    obtain ⟨m, hm⟩ := pushes_map_only k r sh.channels p
    exact Records.of_eq (by rw [hm])
  enters _ _ _ := Records.of_eq rfl
  displaces _ _ _ _ _ := Records.of_eq rfl
  head p := Records.of_eq (by rcases takeHead_cases p with e | ⟨q, j, e, _⟩ <;> rw [e])

/-- The endings of an action that records are those that its trial run has recorded, slots of the sixteen. -/
theorem endingsOf_records {act : Blocks → Blocks} (h : ∀ p, Records p (act p)) (p : Blocks) :
    (act (setForesight (.recording []) p)).runner.foresight = .recording (endingsOf act p) ∧ ∀ k ∈ endingsOf act p, k < 16 := by
  obtain ⟨more, e, l⟩ := h _ [] (setForesight_foresight _ p)
  unfold endingsOf
  rw [e]
  exact ⟨rfl, l⟩

theorem nodup_eraseDups (ks : List Nat) : ks.eraseDups.Nodup := by
  suffices H : ∀ n (ks : List Nat), ks.length ≤ n → ks.eraseDups.Nodup from H _ ks (Nat.le_refl _)
  intro n
  induction n with
  | zero => intro ks h; rw [List.eq_nil_of_length_eq_zero (Nat.le_zero.mp h)]; exact List.nodup_nil
  | succ n ih =>
    intro ks h
    cases ks with
    | nil => exact List.nodup_nil
    | cons k ks =>
      rw [List.eraseDups_cons, List.nodup_cons]
      refine ⟨fun hk => ?_, ih _ (Nat.le_trans (List.length_filter_le _ _) (Nat.le_of_succ_le_succ h))⟩
      rw [List.mem_eraseDups] at hk
      simpa using (List.mem_filter.mp hk).2

/-- A request that counts endings replies with the number of slots that end at its event, each a slot of the sixteen, once (R41, R161). -/
theorem endCounted_count (ends : List (Nat × EndReason)) (p : Blocks) : ∃ ended,
    ended = (endingsOf (endSlotsWith pendingScan ends) p).eraseDups ∧ ended.Nodup ∧ (∀ k ∈ ended, k < 16) ∧
    endCounted ends p = (ended.length, endSlots ends p) :=
  ⟨_, rfl, nodup_eraseDups _,
    fun k hk => (endingsOf_records (records.endSlotsWith _ records.pendingScan ends) p).2 k (List.mem_eraseDups.mp hk), rfl⟩

/-! ### GO -/

theorem putNotice_setForesight (n : Notice) (f : Foresight) (p : Blocks) : putNotice n (setForesight f p) = setForesight f (putNotice n p) := by
  unfold putNotice
  rw [show (setForesight f p).link = p.link from rfl]
  split <;> rfl

theorem modSlot_setForesight (k : Nat) (g : SlotRec → SlotRec) (f : Foresight) (p : Blocks) :
    modSlot k g (setForesight f p) = setForesight f (modSlot k g p) := by
  unfold modSlot
  rw [show slotOf (setForesight f p) k = slotOf p k from rfl]
  split <;> rfl

theorem offer_setForesight (t : Transaction) (f : Foresight) (p : Blocks) : offer t (setForesight f p) = setForesight f (offer t p) := by
  have lost : ∀ (t : Transaction) c q, reportCueLost t c (setForesight f q) = setForesight f (reportCueLost t c q) := by
    intro t c q
    unfold reportCueLost
    simp only [show ∀ k, slotOf (setForesight f q) k = slotOf q k from fun _ => rfl]
    split
    · split
      · rfl
      · rw [putNotice_setForesight]; exact modSlot_setForesight _ _ _ _
    · rfl
  have enter : enterQueue t (setForesight f p) = setForesight f (enterQueue t p) := by
    unfold enterQueue
    rw [show (setForesight f p).bus = p.bus from rfl]
    split
    · rfl
    · split
      · rfl
      · split
        · dsimp only
          split
          · rfl
          · exact lost _ _ { p with bus := { p.bus with queue := insertTx t (dropYoungest _ p.bus.queue) } }
        · exact lost _ _ p
  have head : ∀ q, takeHead (setForesight f q) = setForesight f (takeHead q) := by
    intro q
    unfold takeHead
    rw [show (setForesight f q).bus = q.bus from rfl, show (setForesight f q).store = q.store from rfl]
    split
    · rfl
    · split
      · rfl
      · split <;> rfl
  unfold offer
  rw [show nodePresent (setForesight f p) t.node = nodePresent p t.node from rfl, enter, head]
  split
  · split
    · exact modSlot_setForesight _ _ _ _
    · rfl
  · rfl

theorem fireTx_setForesight (k ci ch : Nat) (kind : TxKind) (f : Foresight) (p : Blocks) :
    fireTx k ci ch kind (setForesight f p) = setForesight f (fireTx k ci ch kind p) := by
  unfold fireTx
  rw [show slotOf (setForesight f p) k = slotOf p k from rfl]
  split
  · rfl
  · unfold offerChannel
    rw [show channelEntry (setForesight f p) ch = channelEntry p ch from rfl]
    split
    · rfl
    · exact offer_setForesight _ f p

theorem fireAction_setForesight (k ci : Nat) (sh : ShowRecord) (a : CueAction) (r : SlotRec) (f : Foresight) (p : Blocks) :
    fireAction k ci sh a r (setForesight f p) = setForesight f (fireAction k ci sh a r p) := by
  unfold fireAction pointerTo
  cases a <;> simp only [modSlot_setForesight, putNotice_setForesight, fireTx_setForesight]

theorem fireCues_setForesight (k : Nat) (sh : ShowRecord) (cs : List Cue) (ci : Nat) (f : Foresight) (p : Blocks) :
    fireCues k sh cs ci (setForesight f p) = setForesight f (fireCues k sh cs ci p) := by
  induction cs generalizing ci p with
  | nil => rfl
  | cons c cs ih =>
    unfold fireCues
    rw [show slotOf (setForesight f p) k = slotOf p k from rfl]
    split
    · rfl
    · split
      · rw [fireAction_setForesight]; exact ih _ _
      · rfl

/-- GO neither reads nor writes what is foreseen. -/
theorem goSlot_setForesight (k : Nat) (f : Foresight) (p : Blocks) : goSlot k (setForesight f p) = setForesight f (goSlot k p) := by
  unfold goSlot
  rw [show slotOf (setForesight f p) k = slotOf p k from rfl]
  split
  · rfl
  · rename_i r _
    dsimp only
    rw [show ∀ v, clearLast k (setSlot k v (setForesight f p)) = setForesight f (clearLast k (setSlot k v p)) from fun _ => rfl,
      putNotice_setForesight]
    unfold fireDue
    rw [show ∀ q, slotShow (setForesight f q) k = slotShow q k from fun _ => rfl]
    split
    · rfl
    · exact fireCues_setForesight _ _ _ _ f _

/-! ### Between actions -/

/-- With nothing foreseen before, nothing is foreseen after. -/
def Unforeseen (p q : Blocks) : Prop := p.runner.foresight = .idle → q.runner.foresight = .idle

theorem unforeseenClosed : Closed Unforeseen where
  refl _ h := h
  trans a b h := b (a h)
  notice n p h := by rw [putNotice_runner]; exact h
  slot _ _ _ _ h := h
  fill _ _ _ h := h
  leave _ _ h := h
  groups _ _ h := h
  note k p _ h := by simp [noteEnd, h, Foresight.after]
  foreseen _ _ _ _ := rfl
  rest _ _ _ h := h
  wait _ _ _ h := h
  off _ _ h := h
  forget _ _ h := h
  wipe _ h := h
  push k r _ sh p _ _ h := by
    obtain ⟨m, hm⟩ := pushes_map_only k r sh.channels p
    rw [hm]; exact h
  enters _ _ _ h := h
  displaces _ _ _ _ _ h := h
  head p h := by rcases takeHead_cases p with e | ⟨q, j, e, _⟩ <;> rw [e] <;> exact h

/-- Every command leaves nothing foreseen where nothing was. -/
theorem unforeseenEdits : Edits Unforeseen where
  toClosed := unforeseenClosed
  take _ _ _ h := h
  mark _ _ _ _ _ h := h
  idle _ _ h := h
  rearms _ _ _ h := h
  pointer _ _ _ h := h
  line _ _ _ h := h
  gallery _ _ _ h := h
  law _ _ _ h := h
  house _ _ _ h := h
  alarm _ _ _ h := h
  orders := orders_of unforeseenClosed (fun _ h => h) (fun _ h => h) (fun _ h => h) (fun _ h => h)
  time _ _ _ h := h
  rests _ _ h := h
  slots _ _ h := h
  restIdle _ _ h := h
  empties _ h := h
  discard _ _ h := h
  job _ _ h := h
  polls _ _ h := h
  node n r p _ h := by unfold setNode; split <;> exact h
  last _ _ _ _ h := h
  settings _ _ _ h := h
  flag _ _ h := h
  link _ _ _ h := h
  store _ _ _ h := h
  runner _ _ hr h := hr.trans h
  level _ _ h := h
  resetNodes _ h := h
  clearSources _ h := h
  hand _ _ h := h
  begins _ _ := rfl

end Sys2Proof.Machine
end

