-- ==== Sys2Proof/Laws/Scan.lean ====
section
/-! SUPPORT. The pending scan does not depend on its bound: a bound of the number of waiting slots, or any greater, gives the same, so each grant is followed by the scan of the slots still waiting (R35). -/

namespace Sys2Proof.Machine

/-- No slot joins the wait order. -/
def WaitsNoMore (p q : Blocks) : Prop := q.map.waitOrder.length ≤ p.map.waitOrder.length

theorem pushEntry_waits (k : Nat) (r : SlotRec) (chs : List Nat) (p : Blocks) :
    (chs.foldl (fun q ch => pushEntry k r ch q) p).map.waitOrder = p.map.waitOrder := by
  induction chs generalizing p with
  | nil => rfl
  | cons c cs ih => exact (ih _).trans rfl

/-- Claims, launches, endings and scans let no slot join the wait order (R31). -/
theorem waitsNoMore : Claims WaitsNoMore where
  refl _ := Nat.le_refl _
  trans a b := Nat.le_trans b a
  notice _ _ := by unfold WaitsNoMore putNotice; split <;> exact Nat.le_refl _
  slot _ _ _ _ := Nat.le_refl _
  groups _ _ := Nat.le_refl _
  note _ _ _ := Nat.le_refl _
  rest _ _ _ := Nat.le_refl _
  leave _ _ := List.length_filter_le _ _
  off _ _ := Nat.le_refl _
  forget _ _ := Nat.le_refl _
  wipe _ := Nat.zero_le _
  enters _ _ _ := Nat.le_refl _
  displaces _ _ _ _ _ := Nat.le_refl _
  head p := by
    unfold WaitsNoMore takeHead
    repeat' split
    all_goals exact Nat.le_refl _
  fill _ _ _ := Nat.le_refl _
  push k r _ sh p _ _ := Nat.le_of_eq (congrArg List.length (pushEntry_waits k r sh.channels p))

/-- Two scans give the same on every part with at most `n` slots waiting. -/
def AgreeTo (n : Nat) (f g : Blocks → Blocks) : Prop := ∀ q : Blocks, q.map.waitOrder.length ≤ n → f q = g q

section

variable {n : Nat} {f g : Blocks → Blocks} (h : AgreeTo n f g) (hf : ∀ p, WaitsNoMore p (f p))
include h

theorem removal_agree (ks : List Nat) (p : Blocks) (hp : p.map.waitOrder.length ≤ n) : removal f ks p = removal g ks p := by
  unfold removal
  split
  · refine h _ (Nat.le_trans ?_ hp)
    have c := waitsNoMore
    exact c.trans (c.trans (c.trans (c.off ks p) (c.settleGroups _)) (c.fold _ (fun q _ => c.exposeChannel _ _ q) _ _))
      (c.fold _ (fun q k => c.regainIfTop k q) _ _)
  · rfl

theorem grant_agree (k : Nat) (p : Blocks) (hp : p.map.waitOrder.length ≤ n) : grant f k p = grant g k p := by
  unfold grant
  split
  · rfl
  · dsimp only
    refine removal_agree h _ _ (Nat.le_trans ?_ hp)
    have c := waitsNoMore
    refine c.trans ?_ (c.fold _ (fun q a => c.endOne a .leader q) _ _)
    refine c.trans ?_ (c.fold _ (fun q a => c.preemptSlot _ _ a q) _ _)
    exact Nat.le_of_eq (congrArg List.length (pushEntry_waits _ _ _ _))

theorem startFollower_agree (l id : Nat) (p : Blocks) (hp : p.map.waitOrder.length ≤ n) :
    startFollower f l p id = startFollower g l p id := by
  unfold startFollower
  split
  · rfl
  · rfl
  · split
    · rfl
    · split
      · rfl
      · dsimp only
        split
        · rfl
        · exact congrArg (launchFollower l _) (grant_agree h _ _ hp)

include hf

theorem formGroup_agree (l : Nat) (fs : List Nat) (p : Blocks) (hp : p.map.waitOrder.length ≤ n) : formGroup f l fs p = formGroup g l fs p := by
  have c := waitsNoMore
  have key : ∀ (fs : List Nat) (q : Blocks), q.map.waitOrder.length ≤ n →
      fs.foldl (fun b id => startFollower f l b id) q = fs.foldl (fun b id => startFollower g l b id) q := by
    intro fs
    induction fs with
    | nil => exact fun _ _ => rfl
    | cons x xs ih =>
      intro q hq
      have e : startFollower f l q x = startFollower g l q x := startFollower_agree h l x q hq
      rw [List.foldl_cons, List.foldl_cons, ← e]
      exact ih _ (Nat.le_trans (c.startFollower f hf l q x) hq)
  unfold formGroup
  dsimp only
  rw [key]
  refine Nat.le_trans ?_ hp
  split
  · exact c.trans (c.trans (c.groups _ p) (c.modSlot _ _ _)) (c.enterPriming _ _)
  · exact Nat.le_refl _

theorem afterClaim_agree (k id : Nat) (o : Origin) (p : Blocks) (hp : p.map.waitOrder.length ≤ n) :
    afterClaim f k id o p = afterClaim g k id o p := by
  unfold afterClaim
  split
  · rfl
  · rfl
  · exact formGroup_agree h hf _ _ p hp

end

theorem leaveWait_fewer {k : Nat} {p : Blocks} (h : k ∈ p.map.waitOrder) : (leaveWait k p).map.waitOrder.length < p.map.waitOrder.length := by
  refine Nat.lt_of_le_of_ne (List.length_filter_le _ _) fun e => ?_
  have := List.length_filter_eq_length_iff.mp e k h
  simp at this

/-- A scan's bound may be any number from the number of waiting slots up (R35). -/
theorem scan_agree (n m : Nat) (p : Blocks) (hn : p.map.waitOrder.length ≤ n) (hm : p.map.waitOrder.length ≤ m) : scan n p = scan m p := by
  suffices H : ∀ b n m, b ≤ n → b ≤ m → AgreeTo b (scan n) (scan m) from H _ n m hn hm p (Nat.le_refl _)
  intro b
  induction b with
  | zero =>
    intro n m _ _ q hq
    have hq : q.map.waitOrder = [] := List.eq_nil_of_length_eq_zero (Nat.le_zero.mp hq)
    have e : ∀ n, scan n q = q := fun n => by
      cases n with
      | zero => rfl
      | succ n => unfold scan; rw [hq]; rfl
    rw [e, e]
  | succ b ih =>
    intro n m hn hm q hq
    obtain ⟨n, rfl⟩ : ∃ x, n = x + 1 := ⟨n - 1, by omega⟩
    obtain ⟨m, rfl⟩ : ∃ x, m = x + 1 := ⟨m - 1, by omega⟩
    have h : AgreeTo b (scan n) (scan m) := ih n m (by omega) (by omega)
    have c := waitsNoMore
    unfold scan
    split
    · rfl
    · rename_i k hk
      split
      · rfl
      · have hl : (leaveWait k q).map.waitOrder.length ≤ b :=
          Nat.le_of_lt_succ (Nat.lt_of_lt_of_le (leaveWait_fewer (List.mem_of_find?_eq_some hk)) hq)
        have hc : claimable (leaveWait k q) k = true := by
          have := List.find?_some hk
          exact this
        have hg := c.grant (scan n) (c.scan n) k (leaveWait k q) hc
        rw [grant_agree h k _ hl] at hg ⊢
        have hg' := Nat.le_trans hg hl
        rw [← afterClaim_agree h (c.scan n) _ _ _ _ hg']
        exact h _ (Nat.le_trans (c.afterClaim (scan n) (c.scan n) _ _ _ _) hg')

/-- Where no waiting slot's claim succeeds, the scan changes nothing (R35). -/
theorem pendingScan_still {p : Blocks} (h : ∀ k ∈ p.map.waitOrder, claimable p k = false) : pendingScan p = p := by
  have : p.map.waitOrder.find? (fun k => claimable p k) = none := List.find?_eq_none.mpr fun k hk => by rw [h k hk]; decide
  unfold pendingScan
  cases p.map.waitOrder.length with
  | zero => rfl
  | succ n => unfold scan; rw [this]

/-- The oldest waiting slot whose claim succeeds leaves the wait order and has it granted; then the scan begins again (R35). -/
theorem pendingScan_grants {p : Blocks} {k : Nat} {r : SlotRec} (hk : p.map.waitOrder.find? (fun k => claimable p k) = some k)
    (hr : slotOf p k = some r) :
    pendingScan p = pendingScan (afterClaim pendingScan k r.showId r.origin (grant pendingScan k (leaveWait k p))) := by
  have c := waitsNoMore
  have hlt := leaveWait_fewer (List.mem_of_find?_eq_some hk)
  obtain ⟨n, hn⟩ : ∃ n, p.map.waitOrder.length = n + 1 := ⟨p.map.waitOrder.length - 1, by omega⟩
  have h : AgreeTo n (scan n) pendingScan := fun q hq => scan_agree _ _ q hq (Nat.le_refl _)
  have hl : (leaveWait k p).map.waitOrder.length ≤ n := by omega
  have hg := Nat.le_trans (c.grant pendingScan c.pendingScan k (leaveWait k p) (List.find?_some hk)) hl
  have step : pendingScan p = scan n (afterClaim (scan n) k r.showId r.origin (grant (scan n) k (leaveWait k p))) := by
    conv => lhs; unfold pendingScan; rw [hn]; unfold scan; rw [hk]; simp only [hr]
  rw [step, grant_agree h k _ hl, afterClaim_agree h (c.scan n) _ _ _ _ hg]
  exact h _ (Nat.le_trans (c.afterClaim pendingScan c.pendingScan _ _ _ _) hg)

end Sys2Proof.Machine
end

