-- ==== Sys2Proof/Laws/Serving.lean ====
section
/-! SUPPORT. Taking queued requests: none joins the queue meanwhile, the frame being sent stays, and serving goes on until nothing more may be taken (R175, R177). -/

namespace Sys2Proof.Machine

/-- The takers with a tick in hand and the frame being sent are the same, and no request has joined the queue. -/
structure TakeFrame (p q : Blocks) : Prop where
  inHand : q.time.inHand = p.time.inHand
  transmitting : q.link.transmitting = p.link.transmitting
  fewer : q.link.requests.length ≤ p.link.requests.length

theorem TakeFrame.refl (p : Blocks) : TakeFrame p p := ⟨rfl, rfl, Nat.le_refl _⟩

theorem TakeFrame.trans {p q r : Blocks} (a : TakeFrame p q) (b : TakeFrame q r) : TakeFrame p r :=
  ⟨b.inHand.trans a.inHand, b.transmitting.trans a.transmitting, Nat.le_trans b.fewer a.fewer⟩

theorem resetPart_transmitting (tag : Byte) (p : Blocks) : (resetPart tag p).link.transmitting = p.link.transmitting := by
  have h0 : (putReply (.ok tag resetKind .resetTaken) (overtake p)).link.transmitting = p.link.transmitting := rfl
  have hb := (EventFrame.resetBlocks (putReply (.ok tag resetKind .resetTaken) (overtake p))).transmitting.trans h0
  unfold resetPart resetNotices
  rw [putNotice_transmitting]
  generalize resetBlocks (putReply (.ok tag resetKind .resetTaken) (overtake p)) = q at hb ⊢
  exact hb

theorem resetPart_inHand (tag : Byte) (p : Blocks) : (resetPart tag p).time.inHand = p.time.inHand := by
  have h0 : (putReply (.ok tag resetKind .resetTaken) (overtake p)).time.inHand = p.time.inHand := rfl
  have hb := (EventFrame.resetBlocks (putReply (.ok tag resetKind .resetTaken) (overtake p))).inHand.trans h0
  unfold resetPart resetNotices
  rw [putNotice_time]
  generalize resetBlocks (putReply (.ok tag resetKind .resetTaken) (overtake p)) = q at hb ⊢
  exact hb

/-- A request that is taken leaves the frame being sent, and lets none join the queue (R175, R177). -/
theorem takeRequest_frame (tag kind : Byte) (r : Request) (p : Blocks) : TakeFrame p (takeRequest tag kind r p) := by
  have c := askFrame
  cases r
  case saveStore => exact ⟨rfl, rfl, Nat.le_refl _⟩
  case reset => exact ⟨resetPart_inHand tag p, resetPart_transmitting tag p, by rw [show (takeRequest tag kind .reset p).link.requests = [] from resetPart_requests tag p]; exact Nat.zero_le _⟩
  case defineShow r => exact ⟨(c.defineShow r p).inHand, (c.defineShow r p).transmitting, (c.defineShow r p).fewer⟩
  case appendCues r => exact ⟨(c.appendCues r p).inHand, (c.appendCues r p).transmitting, (c.appendCues r p).fewer⟩
  case eraseShow id => exact ⟨(c.eraseShow id p).inHand, (c.eraseShow id p).transmitting, (c.eraseShow id p).fewer⟩
  case readShowHeader id => exact ⟨(c.readHeader id p).inHand, (c.readHeader id p).transmitting, (c.readHeader id p).fewer⟩
  case readShowPage id n => exact ⟨(c.readPage id n p).inHand, (c.readPage id n p).transmitting, (c.readPage id n p).fewer⟩
  case setChannel r => exact ⟨(c.setChannel r p).inHand, (c.setChannel r p).transmitting, (c.setChannel r p).fewer⟩
  case getChannel ch => exact ⟨(c.getChannel ch p).inHand, (c.getChannel ch p).transmitting, (c.getChannel ch p).fewer⟩
  case stopGallery g => exact ⟨(c.stopGallery g p).inHand, (c.stopGallery g p).transmitting, (c.stopGallery g p).fewer⟩
  case startShow id o => exact ⟨(c.start id o p).inHand, (c.start id o p).transmitting, (c.start id o p).fewer⟩
  case stopShow id => exact ⟨(c.stop id p).inHand, (c.stop id p).transmitting, (c.stop id p).fewer⟩
  case release id => exact ⟨(c.release id p).inHand, (c.release id p).transmitting, (c.release id p).fewer⟩
  case getSlot k => exact ⟨(c.getSlot k p).inHand, (c.getSlot k p).transmitting, (c.getSlot k p).fewer⟩
  case setBus t n => exact ⟨(c.setBus t n p).inHand, (c.setBus t n p).transmitting, (c.setBus t n p).fewer⟩
  case getNodes => exact ⟨(c.getNodes p).inHand, (c.getNodes p).transmitting, (c.getNodes p).fewer⟩
  case setLine r => exact ⟨(c.setLine r p).inHand, (c.setLine r p).transmitting, (c.setLine r p).fewer⟩
  case setRoute r => exact ⟨(c.setRoute r p).inHand, (c.setRoute r p).transmitting, (c.setRoute r p).fewer⟩
  case clearPending b => exact ⟨(c.clearPending b p).inHand, (c.clearPending b p).transmitting, (c.clearPending b p).fewer⟩
  case defineSet r => exact ⟨(c.defineSet r p).inHand, (c.defineSet r p).transmitting, (c.defineSet r p).fewer⟩
  case startSet n => exact ⟨(c.startSet n p).inHand, (c.startSet n p).transmitting, (c.startSet n p).fewer⟩
  case getTriggers t n => exact ⟨(c.getTriggers t n p).inHand, (c.getTriggers t n p).transmitting, (c.getTriggers t n p).fewer⟩
  case clearLevelFlags b => exact ⟨(c.clearLevelFlags b p).inHand, (c.clearLevelFlags b p).transmitting, (c.clearLevelFlags b p).fewer⟩
  case getLevels n => exact ⟨(c.getLevels n p).inHand, (c.getLevels n p).transmitting, (c.getLevels n p).fewer⟩
  case setGallery r => exact ⟨(c.setGallery r p).inHand, (c.setGallery r p).transmitting, (c.setGallery r p).fewer⟩
  case setLaw r => exact ⟨(c.setLaw r p).inHand, (c.setLaw r p).transmitting, (c.setLaw r p).fewer⟩
  case removeLaw ch => exact ⟨(c.removeLaw ch p).inHand, (c.removeLaw ch p).transmitting, (c.removeLaw ch p).fewer⟩
  case getLaw ch => exact ⟨(c.getLaw ch p).inHand, (c.getLaw ch p).transmitting, (c.getLaw ch p).fewer⟩
  case setTimebase s r => exact ⟨(c.setTimebase s r p).inHand, (c.setTimebase s r p).transmitting, (c.setTimebase s r p).fewer⟩
  case setTime s d => exact ⟨(c.setTime s d p).inHand, (c.setTime s d p).transmitting, (c.setTime s d p).fewer⟩
  case getTime => exact ⟨(c.getTime p).inHand, (c.getTime p).transmitting, (c.getTime p).fewer⟩
  case setEntry r => exact ⟨(c.setEntry r p).inHand, (c.setEntry r p).transmitting, (c.setEntry r p).fewer⟩
  case getEntry e => exact ⟨(c.getEntry e p).inHand, (c.getEntry e p).transmitting, (c.getEntry e p).fewer⟩
  case closeHouse w => exact ⟨(c.closeHouse w p).inHand, (c.closeHouse w p).transmitting, (c.closeHouse w p).fewer⟩
  case openHouse => exact ⟨(c.openHouse p).inHand, (c.openHouse p).transmitting, (c.openHouse p).fewer⟩
  case alarmAck => exact ⟨(c.alarmAck p).inHand, (c.alarmAck p).transmitting, (c.alarmAck p).fewer⟩
  case resume => exact ⟨(c.resume p).inHand, (c.resume p).transmitting, (c.resume p).fewer⟩
  case setAlarm s t => exact ⟨(c.setAlarm s t p).inHand, (c.setAlarm s t p).transmitting, (c.setAlarm s t p).fewer⟩
  case getStatus => exact ⟨rfl, rfl, Nat.le_refl _⟩
  case stopAll => exact ⟨(c.stopAll p).inHand, (c.stopAll p).transmitting, (c.stopAll p).fewer⟩

theorem takeQueued_frame (x : Queued) (p : Blocks) : TakeFrame p (takeQueued x p) := by
  unfold takeQueued
  split
  · exact ⟨rfl, rfl, Nat.le_refl _⟩
  · exact ⟨rfl, rfl, Nat.le_refl _⟩
  · exact ⟨rfl, rfl, Nat.le_refl _⟩
  · exact takeRequest_frame _ _ _ p

/-- Serving's bound may be any number from the number of requests waiting up. -/
theorem serveUpTo_agree (n m : Nat) (p : Blocks) (hn : p.link.requests.length ≤ n) (hm : p.link.requests.length ≤ m) :
    serveUpTo n p = serveUpTo m p := by
  induction n generalizing m p with
  | zero =>
    have e : p.link.requests = [] := List.eq_nil_of_length_eq_zero (Nat.le_zero.mp hn)
    cases m with
    | zero => rfl
    | succ m => unfold serveUpTo; rw [e]
  | succ n ih =>
    cases m with
    | zero =>
      have e : p.link.requests = [] := List.eq_nil_of_length_eq_zero (Nat.le_zero.mp hm)
      unfold serveUpTo; rw [e]
    | succ m =>
      unfold serveUpTo
      split
      · rfl
      · rename_i q rest h
        split
        · have l := (takeQueued_frame q (modLink (fun l => { l with requests := rest }) p)).fewer
          rw [h] at hn hm
          exact ih _ _ (Nat.le_trans l (Nat.le_of_succ_le_succ hn)) (Nat.le_trans l (Nat.le_of_succ_le_succ hm))
        · rfl

theorem serveUpTo_cons {p : Blocks} {x : Queued} {rest : List Queued} (n : Nat) (h : p.link.requests = x :: rest) (hm : mayTake p = true) :
    serveUpTo (n + 1) p = serveUpTo n (takeQueued x (modLink (fun l => { l with requests := rest }) p)) := by
  conv => lhs; unfold serveUpTo
  rw [h]
  exact if_pos hm

/-- The oldest request that may be taken is taken, and then those after it (R175). -/
theorem serve_cons {p : Blocks} {x : Queued} {rest : List Queued} (h : p.link.requests = x :: rest) (hm : mayTake p = true) :
    serve p = serve (takeQueued x (modLink (fun l => { l with requests := rest }) p)) := by
  have l := (takeQueued_frame x (modLink (fun l => { l with requests := rest }) p)).fewer
  have e : serve p = serveUpTo (rest.length + 1) p := by unfold serve; rw [h]; rfl
  rw [e, serveUpTo_cons _ h hm]
  exact serveUpTo_agree _ _ _ l (Nat.le_refl _)

/-- Serving ends with nothing waiting, or with nothing that may be taken (R175). -/
theorem serve_done (p : Blocks) : (serve p).link.requests = [] ∨ mayTake (serve p) = false := by
  suffices H : ∀ n p, p.link.requests.length ≤ n → (serveUpTo n p).link.requests = [] ∨ mayTake (serveUpTo n p) = false from
    H _ p (Nat.le_refl _)
  intro n
  induction n with
  | zero => intro p h; exact .inl (List.eq_nil_of_length_eq_zero (Nat.le_zero.mp h))
  | succ n ih =>
    intro p h
    unfold serveUpTo
    split
    · exact .inl ‹_›
    · rename_i q rest hr
      split
      · refine ih _ (Nat.le_trans (takeQueued_frame _ _).fewer ?_)
        rw [hr] at h
        exact Nat.le_of_succ_le_succ h
      · rename_i hn
        exact .inr (by simpa using hn)

theorem serve_serve (p : Blocks) : serve (serve p) = serve p := by
  rcases serve_done p with h | h
  · exact serve_empty h
  · exact serve_stuck h

theorem serve_frame (p : Blocks) : TakeFrame p (serve p) := by
  suffices H : ∀ n p, TakeFrame p (serveUpTo n p) from H _ p
  intro n
  induction n with
  | zero => exact fun p => .refl p
  | succ n ih =>
    intro p
    unfold serveUpTo
    split
    · exact .refl p
    · rename_i q rest hr
      split
      · have l : TakeFrame p (modLink (fun l => { l with requests := rest }) p) :=
          ⟨rfl, rfl, by
            show rest.length ≤ p.link.requests.length; rw [hr]; exact Nat.le_succ _⟩
        exact (l.trans (takeQueued_frame _ _)).trans (ih _)
      · exact .refl p

/-- A busy transmitter does not look (R177). -/
theorem transmit_busy {p : Blocks} (h : p.link.transmitting ≠ none) : transmit p = p := by
  unfold transmit
  split
  · rfl
  all_goals exact absurd ‹p.link.transmitting = none› h

/-- An event's end leaves a frame that is being sent (R177). -/
theorem finish_transmitting {p : Blocks} {f : TxFrame} (h : p.link.transmitting = some f) : (finish p).link.transmitting = some f := by
  have hs : (serve p).link.transmitting = some f := (serve_frame p).transmitting.trans h
  have hr : (refill (serve p)).link.transmitting = some f := by
    unfold refill
    split
    · exact hs
    · rw [(serve_frame _).transmitting, transmit_busy (by rw [hs]; exact Option.some_ne_none f)]
      exact hs
  unfold finish
  rw [transmit_busy (by rw [hr]; exact Option.some_ne_none f)]
  exact hr

/-- An event's end leaves the takers with a tick in hand (R148, R175). -/
theorem finish_inHand (p : Blocks) : (finish p).time.inHand = p.time.inHand := by
  have hs := (serve_frame p).inHand
  have hr : (refill (serve p)).time.inHand = p.time.inHand := by
    unfold refill
    split
    · exact hs
    · rw [(serve_frame _).inHand, transmit_time]
      exact hs
  unfold finish
  rw [transmit_time]
  exact hr

/-- Each taker of the list puts its tick down, and no other does (R148). -/
theorem takerEvents_inHand (ts : List TickTaker) (p : Blocks) :
    (takerEvents ts p).time.inHand = p.time.inHand.filter (fun t => decide (t ∉ ts)) := by
  induction ts generalizing p with
  | nil => simp [takerEvents]
  | cons t ts ih =>
    have e : (takerEvent p t).time.inHand = p.time.inHand.filter (fun x => decide (x ≠ t)) := by
      unfold takerEvent
      split
      · rw [finish_inHand, (eventFrame.takeTick t _).inHand]; rfl
      · rename_i hn
        refine (List.filter_eq_self.mpr fun x hx => ?_).symm
        rw [decide_eq_true_eq]
        rintro rfl
        exact hn (by simpa using hx)
    refine (ih (takerEvent p t)).trans ?_
    rw [e, List.filter_filter]
    refine List.filter_congr fun x _ => ?_
    by_cases h1 : x = t <;> by_cases h2 : x ∈ ts <;> simp [h1, h2]

end Sys2Proof.Machine
end

