-- ==== Sys2Proof/Tests/Slice0.lean ====
section
/-! SUPPORT. Tests: the well-formedness checks refuse ill-formed commands, a few commands on small states, and, for each statement with hypotheses, values that meet them. -/

namespace Sys2Proof.Tests

open Sys2Proof Sys2Proof.Machine

set_option Elab.async false

/-! ### Well-formedness: an ill-formed command for each check -/

def goodShow : DefineShowReq :=
  { id := 0, label := [65], cls := 1, channels := [0], length := 100, plays := 1, preempt := 0, conflict := 0, primeMode := 0,
    primeTimeout := 10, rest := 5, leader := .absent, tied := 0, autostart := 0, keepClosed := 0 }

def goodCue : RawCue := { offset := 0, action := 1, index := 0, word := 7, byte7 := 0, byte8 := 0 }

theorem smoke_defineShow : (Instr.defineShow 0 goodShow).wellFormed = true ∧
    [ { goodShow with id := 256 }, { goodShow with label := [256] }, { goodShow with cls := 256 }, { goodShow with channels := [256] },
      { goodShow with length := 16777216 }, { goodShow with plays := 256 }, { goodShow with preempt := 256 },
      { goodShow with conflict := 256 }, { goodShow with primeMode := 256 }, { goodShow with primeTimeout := 256 },
      { goodShow with rest := 65536 }, { goodShow with leader := .present 256 }, { goodShow with tied := 256 },
      { goodShow with autostart := 256 }, { goodShow with keepClosed := 256 },
      { goodShow with label := List.replicate 231 65, channels := [] } ].all (fun r => !(Instr.defineShow 0 r).wellFormed) = true := by
  decide +kernel

theorem smoke_appendCues : (Instr.appendCues 0 { id := 0, cues := [goodCue] }).wellFormed = true ∧
    [ { goodCue with offset := 16777216 }, { goodCue with action := 256 }, { goodCue with index := 256 }, { goodCue with word := 65536 },
      { goodCue with byte7 := 256 }, { goodCue with byte8 := 256 } ].all
        (fun c => !(Instr.appendCues 0 { id := 0, cues := [c] }).wellFormed) = true ∧
    (Instr.appendCues 0 { id := 256, cues := [goodCue] }).wellFormed = false ∧
    (Instr.appendCues 0 { id := 0, cues := List.replicate 28 goodCue }).wellFormed = false := by decide +kernel

def goodChannel : SetChannelReq := { channel := 0, mapped := 1, mapping := { gallery := 0, kind := 0, node := 1, nodeChannel := 0 } }

theorem smoke_setChannel : (Instr.setChannel 0 goodChannel).wellFormed = true ∧
    [ { goodChannel with channel := 256 }, { goodChannel with mapped := 256 },
      { goodChannel with mapping := { goodChannel.mapping with gallery := 256 } },
      { goodChannel with mapping := { goodChannel.mapping with kind := 256 } },
      { goodChannel with mapping := { goodChannel.mapping with node := 256 } },
      { goodChannel with mapping := { goodChannel.mapping with nodeChannel := 256 } } ].all
        (fun r => !(Instr.setChannel 0 r).wellFormed) = true := by decide +kernel

def goodLine : SetLineReq :=
  { line := 0, enabled := 1, activeLevel := 0, edge := 0, stableCount := 4, repeatDelay := 0, repeatInterval := 0, report := 0, wake := 0 }

theorem smoke_setLine : (Instr.setLine 0 goodLine).wellFormed = true ∧
    [ { goodLine with line := 256 }, { goodLine with enabled := 256 }, { goodLine with activeLevel := 256 }, { goodLine with edge := 256 },
      { goodLine with stableCount := 256 }, { goodLine with repeatDelay := 65536 }, { goodLine with repeatInterval := 65536 },
      { goodLine with report := 256 }, { goodLine with wake := 256 } ].all (fun r => !(Instr.setLine 0 r).wellFormed) = true := by
  decide +kernel

def goodRoute : SetRouteReq := { source := 0, enabled := 1, action := 0, target := .present 0, rearm := 0, report := 0 }

theorem smoke_setRoute : (Instr.setRoute 0 goodRoute).wellFormed = true ∧
    [ { goodRoute with source := 256 }, { goodRoute with enabled := 256 }, { goodRoute with action := 256 },
      { goodRoute with target := .present 256 }, { goodRoute with rearm := 65536 }, { goodRoute with report := 256 } ].all
        (fun r => !(Instr.setRoute 0 r).wellFormed) = true := by decide +kernel

theorem smoke_defineSet : (Instr.defineSet 0 { number := 0, shows := [1], mode := 0 }).wellFormed = true ∧
    (Instr.defineSet 0 { number := 256, shows := [1], mode := 0 }).wellFormed = false ∧
    (Instr.defineSet 0 { number := 0, shows := [256], mode := 0 }).wellFormed = false ∧
    (Instr.defineSet 0 { number := 0, shows := [1], mode := 256 }).wellFormed = false ∧
    (Instr.defineSet 0 { number := 0, shows := List.replicate 248 1, mode := 0 }).wellFormed = false := by decide +kernel

theorem smoke_setGallery : (Instr.setGallery 0 { gallery := 0, low := 1, high := 2, stuckCount := 0 }).wellFormed = true ∧
    (Instr.setGallery 0 { gallery := 256, low := 1, high := 2, stuckCount := 0 }).wellFormed = false ∧
    (Instr.setGallery 0 { gallery := 0, low := 65536, high := 2, stuckCount := 0 }).wellFormed = false ∧
    (Instr.setGallery 0 { gallery := 0, low := 1, high := 65536, stuckCount := 0 }).wellFormed = false ∧
    (Instr.setGallery 0 { gallery := 0, low := 1, high := 2, stuckCount := 256 }).wellFormed = false := by decide +kernel

def goodLaw : SetLawReq :=
  { channel := 0, gallery := 0, curve := [(0, 0), (1, 0), (2, 0), (3, 0), (4, 100)], interpolate := 1, upRate := 1, downRate := 1,
    jumpHigh := 0, jumpLow := 0, hysteresis := 0 }

theorem smoke_setLaw : (Instr.setLaw 0 goodLaw).wellFormed = true ∧
    [ { goodLaw with channel := 256 }, { goodLaw with gallery := 256 }, { goodLaw with curve := [] },
      { goodLaw with curve := [(65536, 0), (1, 0), (2, 0), (3, 0), (4, 0)] },
      { goodLaw with curve := [(0, 256), (1, 0), (2, 0), (3, 0), (4, 0)] }, { goodLaw with interpolate := 256 },
      { goodLaw with upRate := 256 }, { goodLaw with downRate := 256 }, { goodLaw with jumpHigh := 256 }, { goodLaw with jumpLow := 256 },
      { goodLaw with hysteresis := 256 } ].all (fun r => !(Instr.setLaw 0 r).wellFormed) = true := by decide +kernel

def goodEntry : SetEntryReq := { entry := 0, enabled := 1, mask := 1, second := 0, action := 3, target := .absent, wake := .absent }

theorem smoke_setEntry : (Instr.setEntry 0 goodEntry).wellFormed = true ∧
    [ { goodEntry with entry := 256 }, { goodEntry with enabled := 256 }, { goodEntry with second := 16777216 },
      { goodEntry with action := 256 }, { goodEntry with target := .present 256 },
      { goodEntry with wake := .present { schedule := 256, trigger := 0 } },
      { goodEntry with wake := .present { schedule := 0, trigger := 256 } } ].all (fun r => !(Instr.setEntry 0 r).wellFormed) = true := by
  decide +kernel

theorem smoke_numbers :
    [ Instr.eraseShow 0 256, .readShowHeader 0 256, .readShowPage 0 256 0, .readShowPage 0 0 65536, .getChannel 0 256, .stopGallery 0 256,
      .start 0 256 0, .start 0 0 256, .stop 0 256, .release 0 256, .getSlot 0 256, .setBus 0 256 0, .setBus 0 1 256, .startSet 0 256,
      .getTriggers 0 256 0, .getTriggers 0 0 256, .getLevels 0 256, .setLawRemoval 0 256, .getLaw 0 256, .setTimebase 0 256 .absent,
      .setTimebase 0 1 (.present 256), .setTime 0 16777216 0, .setTime 0 0 256, .getEntry 0 256,
      .closeHouse 0 { schedule := 256, trigger := 0 }, .closeHouse 0 { schedule := 0, trigger := 256 }, .setAlarm 0 (.present 256) 10,
      .setAlarm 0 .absent 256 ].all (fun c => !c.wellFormed) = true := by decide +kernel

theorem smoke_events :
    [ Instr.showTick { instant := true, first := [.slot 16], late := [] }, .showTick { instant := true, first := [], late := [.slot 16] }, .primeTimeout 16, .holdTimeout 16, .restTimerExpiry 64, .rearmTimerExpiry 64, .lineSample 32 true,
      .repeatEvent 32, .levelSample 16 0, .levelSample 0 1024 ].all (fun c => !c.wellFormed) = true := by decide +kernel

/-! ### Small states -/

/-- The command's next part; the part as it was if the command stopped. -/
def after (c : Instr) (p : Blocks) : Blocks :=
  match exec c { part := p, pending := [] } with
  | .next t => t.part
  | _ => p

/-- A part with that state and no command waiting. -/
def holding (p : Blocks) : State := { part := p, pending := [] }

/-- The reply the transmitter has taken, if that is what it sends. -/
def replySent (p : Blocks) : Option Reply :=
  match p.link.transmitting with
  | some (.reply r) => some r
  | _ => none

/-- The notice the transmitter has taken, with its lost flag, if that is what it sends. -/
def noticeSent (p : Blocks) : Option (Notice × Bool) :=
  match p.link.transmitting with
  | some (.notice n lost _) => some (n, lost)
  | _ => none

/-- The part after a load, with no settings and nothing to send. -/
def bare : Blocks := { State.reset.part with store := { State.reset.part.store with loading := false } }

/-- A show of a class on channels with cues. -/
def aShow (cls : ShowClass) (channels : List Nat) (cues : List Cue) : ShowRecord :=
  { label := [], cls := cls, channels := channels, length := 10, plays := 1, preempt := .resume, conflict := .wait, primeMode := .strict,
    primeTimeout := 1, rest := 3, leader := none, tied := false, autostart := false, keepClosed := false, cues := cues }

def videoShow : ShowRecord := aShow .feature [0] [{ offset := 0, action := .play 0 9 50 true }]
def lightShow : ShowRecord := aShow .feature [1] [{ offset := 0, action := .scene 0 7 20 }, { offset := 10, action := .hold 2 }]
def markShow : ShowRecord := aShow .notice [1] [{ offset := 0, action := .mark 255 }]
def overrideShow : ShowRecord := aShow .override [0, 1] [{ offset := 0, action := .stop 1 }]
def refusing : ShowRecord := { videoShow with conflict := .refuse }
def yielding : ShowRecord := { videoShow with preempt := .yield, cls := .ambient, autostart := true }

/-- Channels 0 VIDEO and 1 LIGHT of gallery 0 on node 1, channel 127 EFFECT of gallery 15 on node 32; eight shows; set 0. -/
def stageSettings : Settings :=
  { Settings.initial with
    channels := tset (tset (tset Settings.initial.channels 0 (some { gallery := 0, kind := .video, node := 1, nodeChannel := 0 }))
      1 (some { gallery := 0, kind := .light, node := 1, nodeChannel := 1 }))
      127 (some { gallery := 15, kind := .effect, node := 32, nodeChannel := 7 })
    shows := tset (tset (tset (tset (tset (tset (tset Settings.initial.shows 0 (some videoShow)) 1 (some lightShow)) 2 (some markShow))
      3 (some overrideShow)) 4 (some refusing)) 5 (some yielding)) 63 (some { videoShow with cues := [] })
    sets := tset (tset (tset (tset Settings.initial.sets 0 (some { shows := [1, 2], mode := .cycle })) 1 (some { shows := [1], mode := .all }))
      7 (some { shows := [1, 2, 1, 62, 0, 3, 4, 5], mode := .all })) 15 (some { shows := [1, 2], mode := .all })
    lines := tset Settings.initial.lines 31
      { LineSettings.initial with enabled := true, wake := true, report := true, repeatDelay := 100, repeatInterval := 50 }
    routes := tset Settings.initial.routes 63 { RouteSettings.initial with enabled := true, rearm := 600 } }

def stage : Blocks := setSettings stageSettings bare

/-- A slot's record as its show is taken and set on its way. -/
def onAir (id : Nat) (sh : ShowRecord) (st : SlotState) (step : Nat) : SlotRec :=
  { SlotRec.taken id sh .link with state := st, step := step }

/-- Slot 0 holds a show in a state, with an entry on channel 0. -/
def playing (id : Nat) (sh : ShowRecord) (st : SlotState) (step : Nat) : Blocks :=
  setOwners 0 [{ cls := sh.cls, slot := 0, showId := id, last := none, uid := 0 }] (setSlot 0 (some (onAir id sh st step)) stage)

/-- The house as `f` makes it. -/
def housed (f : HouseUnit → HouseUnit) (p : Blocks) : Blocks := { p with house := f p.house }

def opened : Blocks := housed (fun h => { h with mode := .opened }) stage
def alarmed : Blocks := housed (fun h => { h with alarmState := .alarm }) stage
def alarmHeld : Blocks := housed (fun h => { h with alarmState := .alarmHeld, acknowledged := true }) stage

/-- Show 20 on channel 0 leads show 21 on channel 1, which yields; show 22 leads show 23, and the two share channel 1; show 24 wants channels 0 and 1. -/
def ledShow : ShowRecord := { lightShow with cls := .ambient, leader := some 20, preempt := .yield }
def wanting : ShowRecord := { lightShow with channels := [0, 1], cues := [{ offset := 0, action := .scene 1 7 20 }] }
def launching : Blocks :=
  setSettings { stageSettings with
    shows := tset (tset (tset (tset (tset stageSettings.shows 20 (some videoShow)) 21 (some ledShow)) 22 (some lightShow))
      23 (some { lightShow with leader := some 22, tied := true })) 24 (some wanting) } bare

/-- The leader of show 20 primes and its follower waits for it at step 2. -/
def grouped : Blocks := after (.start 1 20 0) launching

/-- As `grouped`, the follower tied to its leader. -/
def tiedUp : Blocks :=
  after (.start 1 20 0) (setSettings { launching.store.settings with
    shows := tset launching.store.settings.shows 21 (some { ledShow with tied := true }) } launching)

/-- As `grouped`, the follower's show of RESUME policy. -/
def ledResumes : Blocks :=
  after (.start 1 20 0) (setSettings { launching.store.settings with
    shows := tset launching.store.settings.shows 21 (some { ledShow with preempt := .resume }) } launching)

/-- Entries 94 and 95 fire at the second after midnight: STOP of show 20, which leads, and START of show 2 over its follower. -/
def entriesMeet : Blocks :=
  let p := after (.setTime 1 86399 6) ledResumes
  housed (fun h => { h with mode := .opened }) (setSettings { p.store.settings with
    entries := tset (tset p.store.settings.entries
      94 { ScheduleEntry.initial with enabled := true, mask := 127, second := 0, action := .stop, target := some 20 })
      95 { ScheduleEntry.initial with enabled := true, mask := 127, second := 0, action := .start, target := some 2 } } p)

/-- Show 20 on channel 1 leads show 21, which has no cue; it and show 22, of a higher class on channel 1, start at an opening. -/
def autostarting : Blocks :=
  setSettings { stageSettings with
    shows := tset (tset (tset (tset stageSettings.shows 5 none) 20 (some { lightShow with cls := .ambient, autostart := true }))
      21 (some { ledShow with cues := [] })) 22 (some { lightShow with autostart := true }) } bare

/-- Entry 95 holds an action. -/
def scheduled (a : EntryAction) (target : Option Nat) (wake : Option WakeSet) (p : Blocks) : Blocks :=
  setSettings { p.store.settings with
    entries := tset p.store.settings.entries 95 { enabled := true, mask := 1, second := 86399, action := a, target := target, wake := wake } } p

/-- What Ready asks, as a check. -/
def isReady (p : Blocks) : Bool :=
  !p.store.loading && p.store.save.isNone && p.link.requests.isEmpty && decide (p.link.replies.length < 8)

theorem ready_of {p : Blocks} (h : isReady p = true) : Ready p := by
  simp only [isReady, Bool.and_eq_true, Bool.not_eq_true', Option.isNone_iff_eq_none, List.isEmpty_iff, decide_eq_true_eq] at h
  exact ⟨h.1.1.1, h.1.1.2, h.1.2, h.2⟩

theorem bare_ready : Ready bare := ready_of (by decide +kernel)
theorem stage_ready : Ready stage := ready_of (by decide +kernel)
theorem playing_ready : Ready (playing 0 videoShow .running 3) := ready_of (by decide +kernel)
theorem opened_ready : Ready opened := ready_of (by decide +kernel)
theorem alarmed_ready : Ready alarmed := ready_of (by decide +kernel)
theorem held_ready : Ready alarmHeld := ready_of (by decide +kernel)

/-! ### Commands on small states -/

/-- A tick instant, after which every taker takes the tick. -/
def plainTick : TickOrder := { instant := true, first := [], late := [] }

/-- Commands one after another. -/
def afterAll (cs : List Instr) (p : Blocks) : Blocks := cs.foldl (fun q c => after c q) p

/-- The check value of the nine digits, for polynomial 1021H and an initial value of all ones (R183). -/
theorem test_crc16 : crc16 [0x31, 0x32, 0x33, 0x34, 0x35, 0x36, 0x37, 0x38, 0x39] = 0x29B1#16 := by decide +kernel

theorem test_load_of_blank_areas : noticeSent (after .settingsLoadEnd State.reset.part) = some (.storeEmpty, false) ∧
    (after .settingsLoadEnd State.reset.part).store.loading = false := by decide +kernel

/-- After a load the POLLs of the referenced nodes go first, and what waited is taken (R109, R175). -/
theorem test_load_polls_and_takes_what_waited :
    (after .settingsLoadEnd (Blocks.loadBegins none (some { generation := 1, settings := stageSettings }) none 0)).bus.job.map
      (fun j => (j.tx.kind, j.tx.node)) = some (.poll, 1) ∧
    (after .settingsLoadEnd (Blocks.loadBegins none (some { generation := 1, settings := stageSettings }) none 0)).bus.queue.map
      (fun t => (t.kind, t.node)) = [(.poll, 32)] ∧
    replySent (afterAll [.getTime 9, .settingsLoadEnd] State.reset.part) = some (.refused 9 28 .clockNotSet) := by decide +kernel

theorem test_load_of_area_b :
    noticeSent (after .settingsLoadEnd (Blocks.loadBegins none (some { generation := 65535, settings := stageSettings }) (some .a) 0)) =
      some (.storeLoaded 65535 7 7, false) := by decide +kernel

/-- A GET-TIME frame byte by byte; the clock is not set. -/
theorem test_receiveByte_frame :
    replySent (afterAll (([0xA5, 2, 7, 28] ++ crcBytes [2, 7, 28]).map Instr.receiveByte) bare) = some (.refused 7 28 .clockNotSet) := by
  decide +kernel

theorem test_frameGap : replySent (afterAll [.receiveByte 0xA5, .frameGap] bare) = some (.frameReject .gap) := by decide +kernel

theorem test_defineShow : replySent (after (.defineShow 1 { goodShow with id := 9, channels := [1] }) stage) =
    some (.ok 1 1 (.showDefined 9 0 7)) := by decide +kernel

theorem test_appendCues : replySent (after (.appendCues 1 { id := 1, cues := [{ goodCue with offset := 10 }] }) stage) =
    some (.ok 1 2 (.cuesAppended 1 2 3 8)) ∧
    replySent (after (.appendCues 1 { id := 1, cues := [{ goodCue with offset := 9 }] }) stage) = some (.refused 1 2 .badField) := by
  decide +kernel

theorem test_save : replySent (afterAll [.saveStore 5, .saveWriteEnd true] stage) = some (.ok 5 5 (.saved true 1)) ∧
    (afterAll [.saveStore 5, .saveWriteEnd true] stage).store.note = some .a ∧
    (afterAll [.saveStore 5, .saveWriteEnd false] stage).store.note = none := by decide +kernel

theorem test_setChannel_refusals :
    replySent (after (.setChannel 1 { goodChannel with channel := 5 }) stage) = some (.refused 1 6 .badField) ∧
    replySent (after (.setChannel 1 { goodChannel with mapped := 0 }) stage) = some (.refused 1 6 .channelReferenced) := by decide +kernel

/-- A video show primes, and its READY brings it on air with its PLAY. -/
theorem test_start_primes_and_goes :
    (after (.start 1 0 0) stage).bus.job.map (fun j => j.tx.kind) = some (.prepare 9) ∧
    (slotOf (after (.start 1 0 0) stage) 0).map (fun r => (r.state, r.step, r.missing)) = some (.priming, 1, [0]) ∧
    (slotOf (afterAll [.start 1 0 0, .nodeReply (0x5A#8 :: [1, 1] ++ crcBytes [1, 1])] stage) 0).map (fun r => (r.state, r.step)) =
      some (.running, 3) ∧
    (afterAll [.start 1 0 0, .nodeReply (0x5A#8 :: [1, 1] ++ crcBytes [1, 1])] stage).bus.job.map (fun j => j.tx.kind) =
      some (.play 9 50 true false 0) := by decide +kernel

theorem test_prime_timer_runs_out :
    (slotOf (afterAll [.start 1 0 0, .primeTimeout 0] stage) 0) = none := by decide +kernel

/-- The tick of the start does not count; ten more reach the HOLD at offset 10. -/
theorem test_showTick_to_a_hold :
    (slotOf (afterAll (.start 1 1 0 :: List.replicate 10 (.showTick plainTick)) stage) 0).map (fun r => (r.state, r.clock, r.pointer)) =
      some (.held, 10, 1) ∧
    (slotOf (afterAll (.start 1 1 0 :: List.replicate 9 (.showTick plainTick)) stage) 0).map (fun r => (r.state, r.clock, r.pointer)) =
      some (.running, 9, 1) := by decide +kernel

theorem test_release_completes_the_show :
    (slotOf (afterAll (.start 1 1 0 :: List.replicate 10 (.showTick plainTick) ++ [.release 2 1]) stage) 0) = none := by decide +kernel

theorem test_stop_loads_the_rest_timer :
    (tget (afterAll [.start 1 1 0, .stop 2 1] stage).runner.rest 1 : Option Timer) = some { ticks := 300, fresh := true } := by decide +kernel

/-- A NOTICE over a FEATURE of RESUME policy suspends it, and its end brings it back with its scene, fade 0. -/
theorem test_preemption_and_regain :
    (slotOf (afterAll [.start 1 1 0, .start 2 2 0] stage) 0).map (fun r => r.state) = some .suspended ∧
    (slotOf (afterAll [.start 1 1 0, .start 2 2 0, .stop 3 2] stage) 0).map (fun r => r.state) = some .running := by decide +kernel

/-- A launch group goes when the leader's READY comes, leader first (R77 to R81). -/
theorem test_a_launch_group_goes_together :
    grouped.runner.groups = [{ leader := 0, followers := [1], forming := false, leaderIn := true }] ∧
    ([0, 1].map fun k => (slotOf grouped k).map fun r => (r.state, r.step, r.group)) = [some (.priming, 1, some 0), some (.priming, 2, some 0)] ∧
    ([0, 1].map fun k => (slotOf (after (.nodeReply (0x5A#8 :: [1, 1] ++ crcBytes [1, 1])) grouped) k).map fun r => (r.state, r.step, r.group)) =
      [some (.running, 3, none), some (.running, 3, none)] := by decide +kernel

/-- The leader stops: the follower goes alone, or ends with it where it is tied (R82, R83). -/
theorem test_a_leader_stops :
    (slotOf (after (.stop 2 20) grouped) 1).map (fun r => (r.state, r.step, r.group)) = some (.running, 3, none) ∧
    slotOf (after (.stop 2 20) tiedUp) 1 = none := by decide +kernel

/-- The leader stops and, at that event, a waiting show's claim ends the follower: it takes no GO (R82; log entry 18). -/
theorem test_a_member_that_ends_takes_no_go :
    ((afterAll [.start 2 24 0, .stop 3 20] grouped).link.notices.filter fun n => match n with
      | .showStarted k _ _ _ _ => decide (k = 1)
      | .showEnded k _ _ why step _ => decide (k = 1 ∧ why = .yielded ∧ step = 1)
      | _ => false) = [.showEnded 1 21 (.leader 0) .yielded 1 0] ∧
    slotOf (afterAll [.start 2 24 0, .stop 3 20] grouped) 1 = none ∧
    (slotOf (afterAll [.start 2 24 0, .stop 3 20] grouped) 2).map (fun r => (r.showId, r.step)) = some (24, 3) := by decide +kernel

/-- The leader stops and, at that event, a waiting show's claim suspends the follower, which takes its GO first (R82; log entry 18). -/
theorem test_a_go_comes_before_the_suspension :
    ((afterAll [.start 2 24 0, .stop 3 20] ledResumes).link.notices.filterMap fun n => match n with
      | .showStarted k _ _ _ _ => some (k, 0)
      | .showSuspended k _ above step _ => some (k, 10 * above + step)
      | _ => none) = [(1, 0), (1, 23), (2, 0)] ∧
    (slotOf (afterAll [.start 2 24 0, .stop 3 20] ledResumes) 1).map (fun r => (r.state, r.step)) = some (.suspended, 3) := by decide +kernel

/-- Entry 94 STOPs the leader and entry 95 starts a show over its follower, at one second: entry 94 is carried to its end first (R82, R155). -/
theorem test_an_entry_is_carried_to_its_end :
    (slotOf (dayAdvance entriesMeet) 1).map (fun r => (r.showId, r.state, r.step)) = some (21, .suspended, 3) ∧
    (slotOf (dayAdvance entriesMeet) 0).map (fun r => (r.showId, r.step)) = some (2, 3) := by decide +kernel

/-- Shows 20 and 22 start at an opening: the follower of show 20 is refused, so show 20 goes, and then show 22 covers it (R77, R82, R162). -/
theorem test_an_autostart_is_carried_to_its_end :
    ((after (.openHouse 1) autostarting).link.notices.filterMap fun n => match n with
      | .showStarted k _ _ _ _ => some (k, 0)
      | .showSuspended k _ _ step _ => some (k, step)
      | _ => none) = [(0, 0), (0, 3), (1, 0)] ∧
    (slotOf (after (.openHouse 1) autostarting) 0).map (fun r => (r.showId, r.state, r.step)) = some (20, .suspended, 3) := by decide +kernel

/-- A show of a class on channels that marks its start, with no cue to send. -/
def marker (cls : ShowClass) (channels : List Nat) : ShowRecord := aShow cls channels [{ offset := 0, action := .mark 1 }]

/-- The part with shows of given numbers, no other defined. -/
def withShows (shows : List (Nat × ShowRecord)) : Blocks :=
  setSettings { stageSettings with shows := shows.foldl (fun t x => tset t x.1 (some x.2)) Settings.initial.shows } stage

/-- The slots in which a show has started, and those suspended, each with 100 more, in the order of the notices. -/
def startsIn (p : Blocks) : List Nat :=
  p.link.notices.filterMap fun n => match n with
    | .showStarted k _ _ _ _ => some k
    | .showSuspended k _ _ _ _ => some (100 + k)
    | _ => none

/-- STOP-GALLERY of gallery 0 ends slot 1, and in the scan slot 2's claim makes slot 0, outside the gallery, yield: two slots ended (R41; log entry 16). -/
theorem test_the_count_takes_in_the_scan :
    (afterAll [.start 1 0 0, .start 2 1 0, .start 3 2 0, .stopGallery 4 0] (withShows [(0, { marker .ambient [127] with preempt := .yield }),
      (1, marker .notice [0, 126]), (2, marker .feature [126, 127])])).link.replies.getLast? = some (.ok 4 8 (.galleryStopped 0 2)) := by decide +kernel

/-- Show 20 leads shows 21 and 22; shows 30 and 31 wait for its channels, and want one follower's each. -/
def meeting : List (Nat × ShowRecord) :=
  [(20, { videoShow with channels := [0, 2] }), (21, { marker .ambient [1] with leader := some 20 }),
    (22, { marker .ambient [127] with leader := some 20, preempt := .yield }), (30, marker .feature [0, 1]), (31, marker .feature [2, 127])]

/-- Shows 20, 30 and 31 are started, and show 20 is stopped. -/
def twoClaims : List Instr := [.start 1 20 0, .start 2 30 0, .start 3 31 0, .stop 4 20]

/-- A leader stops with both followers ready, and a waiting claim suspends the second: the first goes before it all the same (R81, R82). -/
theorem test_a_group_goes_in_its_order :
    startsIn (afterAll [.start 1 20 0, .start 2 30 0, .stop 3 20] (withShows [(20, videoShow), (21, { marker .ambient [1] with leader := some 20 }),
      (22, { marker .ambient [127] with leader := some 20 }), (30, marker .feature [0, 127])])) = [1, 2, 102, 3] := by decide +kernel

/-- A leader stops with both followers ready; in the scan one claim suspends the first and the next ends the second: the first goes, and is then suspended, and the second takes no GO (R82). -/
theorem test_only_the_member_that_ends_takes_no_go :
    startsIn (afterAll twoClaims (withShows meeting)) = [1, 101, 3, 4] ∧
    ((afterAll twoClaims (withShows meeting)).link.notices.filter fun n => match n with
      | .showEnded k _ _ _ _ _ => decide (k = 2)
      | _ => false) = [.showEnded 2 22 (.leader 0) .yielded 1 0] := by decide +kernel

/-- The endings foreseen are those that come: after the action none is left (R82; log entry 18). -/
theorem test_the_endings_foreseen_come :
    let p := afterAll (twoClaims.take 3) (withShows meeting)
    endingsOf (endSlotsWith pendingScan [(0, .stopped)]) p = [0, 2] ∧
    (endSlotsWith pendingScan [(0, .stopped)] (setForesight (.known [0, 2]) p)).runner.foresight = .known [] := by decide +kernel

/-- In a scan a leader whose followers are all refused goes before the next waiting claim is granted (R77, R82). -/
theorem test_a_leader_left_alone_goes_at_once :
    startsIn (afterAll [.start 1 10 0, .start 2 20 0, .start 3 30 0, .stop 4 10] (withShows [(10, marker .notice [0, 1]), (20, marker .ambient [1]),
      (21, { videoShow with leader := some 20, cues := [] }), (30, marker .feature [0])])) = [0, 1, 2] := by decide +kernel

/-- While the second of three followers is handled the leader is suspended: the first follower goes before the third is started (R77, R82; log entry 18). -/
theorem test_a_follower_goes_before_the_next_is_started :
    startsIn (afterAll [.start 1 30 0, .start 2 31 0, .start 3 20 0] (withShows [(20, marker .ambient [0]), (21, { marker .feature [2] with leader := some 20 }),
      (25, { marker .notice [1] with leader := some 20 }), (26, { marker .feature [3] with leader := some 20 }),
      (30, { marker .feature [1, 127] with preempt := .yield }), (31, marker .feature [0, 127])])) = [0, 102, 3, 1, 4, 0] := by decide +kernel

/-- The alert output is driven, then released (R164, R183). -/
theorem test_alert_byte : (putAlert true, putAlert false) = ([0], [1]) := by decide +kernel

/-- A set started for a source or an entry reports each refused start with its set (R121, R126). -/
theorem test_a_defined_set_reports_its_refusals :
    (startDefinedSet true 15 { shows := [62, 1], mode := .all } stage).2.link.notices.take 1 = [.startRefused (.showSet 15) (some 62) .noShow .check] ∧
    (startDefinedSet false 15 { shows := [62, 1], mode := .all } stage).2.link.notices.all
      (fun n => decide (n ≠ .startRefused (.showSet 15) (some 62) .noShow .check)) = true ∧
    (tget (startDefinedSet true 15 { shows := [62, 1], mode := .cycle } stage).2.trigger.pointers 15 : Nat) = 0 ∧
    (tget (startDefinedSet true 15 { shows := [1, 62], mode := .cycle } stage).2.trigger.pointers 15 : Nat) = 1 := by decide +kernel

/-- GET-ENTRY's reply is the entry's fields alone (R154, R157). -/
theorem test_getEntry_frame :
    (after (.getEntry 1 95) (scheduled .start (some 63) none stage)).link.transmitting.map frameBytes =
      some (frameOf 1 (0x80 ||| 30) (0 :: [1, 1, 1, 0x51, 0x7F, 0, 1, 63, 0])) := by decide +kernel

/-- Two HOLDs at offset 0. -/
def twoHolds : ShowRecord := { lightShow with cues := [{ offset := 0, action := .hold 2 }, { offset := 0, action := .hold 2 }] }

/-- The command chooses who takes the tick when, and in which order; each taking is an event of its own (R148; log entry 5). -/
theorem test_takers_take_the_tick_apart :
    (afterAll [.start 1 1 0, .showTick plainTick, .showTick { plainTick with first := [.dayClock], late := [.slot 0] }] stage).time.inHand = [.slot 0] ∧
    (slotOf (afterAll [.start 1 1 0, .showTick plainTick, .showTick { plainTick with first := [.dayClock], late := [.slot 0] }] stage) 0).map (fun r => r.clock) = some 1 ∧
    (slotOf (afterAll [.start 1 1 0, .showTick plainTick, .showTick { plainTick with first := [.dayClock], late := [.slot 0] }, .showTick { plainTick with instant := false }] stage) 0).map
      (fun r => r.clock) = some 2 := by decide +kernel

/-- A slot that is released onto a further HOLD, or regains HELD, before it takes the tick counts that tick's one, since it takes it while HELD (R59). -/
theorem test_a_hold_counts_the_tick_taken_while_held :
    let lateTick := Instr.showTick { plainTick with late := [.slot 0] }
    let taken := Instr.showTick { plainTick with instant := false }
    let start := afterAll [.start 1 1 0, .release 2 1] (withShows [(1, twoHolds), (2, markShow)])
    (slotOf start 0).map (fun r => (r.state, r.deadline, r.began)) = some (.held, some 200, true) ∧
    (slotOf (after taken (afterAll [.start 1 1 0, lateTick, .release 2 1] (withShows [(1, twoHolds), (2, markShow)]))) 0).map
      (fun r => (r.state, r.deadline)) = some (.held, some 199) ∧
    (slotOf (afterAll [.start 2 2 0, lateTick, .stop 3 2, taken] start) 0).map (fun r => (r.state, r.deadline)) = some (.held, some 199) := by
  decide +kernel

/-- The TRIGGER notices as sent: source, direction and event for REPEAT, source and direction for NOTE (R114, R120, R183). -/
theorem test_trigger_frames :
    (frameBytes (.notice (.trigger 31 (some .press) .repeated (some true)) false 5)).take 9 = [0xA5, 7, 5, 72, 0, 1, 31, 0, 1] ∧
    (frameBytes (.notice (.trigger 31 (some .release) .note none) true 5)).take 9 = [0xA5, 7, 5, 72, 1, 2, 31, 1, 1] := by decide +kernel

theorem test_stopGallery : replySent (after (.stopGallery 1 0) (playing 0 videoShow .running 3)) = some (.ok 1 8 (.galleryStopped 0 1)) := by
  decide +kernel

theorem test_startSet_moves_its_pointer :
    (tget (after (.startSet 1 0) stage).trigger.pointers 0 : Nat) = 1 := by decide +kernel

/-- An ALL set of eight starts each show in list order. -/
theorem test_startSet_of_eight :
    replySent (after (.startSet 1 7) stage) = some (.ok 1 19 (.setStarted 7 .all 0
      [(1, .accepted 0 .claimed), (2, .accepted 1 .claimed), (1, .refused .already .check), (62, .refused .noShow .check),
       (0, .accepted 2 .claimed), (3, .refused .badClass .check), (4, .refused .channelBusy .claim), (5, .accepted 3 (.pending 0))])) := by
  decide +kernel

theorem test_repeat_of_a_line :
    (tget (afterAll (.lineSample 31 true :: List.replicate 4 (.lineSample 31 false)) stage).trigger.lines 31).countdown = some 20 ∧
    (tget (after (.repeatEvent 31)
      (afterAll (.lineSample 31 true :: List.replicate 4 (.lineSample 31 false)) stage)).trigger.lines 31).countdown = some 10 := by
  decide +kernel

theorem test_levelSample_sets_HIGH :
    (tget (afterAll [.setGallery 1 { gallery := 2, low := 100, high := 600, stuckCount := 10 }, .levelSample 2 600, .levelSample 2 601]
      stage).level.galleries 2).highFlag = true := by decide +kernel

def humpLaw : LawSettings :=
  { gallery := 0, curve := [⟨0, 0⟩, ⟨2, 1⟩, ⟨4, 1⟩, ⟨6, 0⟩, ⟨1023, 100⟩], interpolate := true, upRate := 1, downRate := 100,
    jumpHigh := true, jumpLow := true, hysteresis := 200 }

/-- Half way between two gains, the nearest, a half going up. -/
theorem test_curve : targetGain humpLaw 1 = 1 ∧ targetGain { humpLaw with interpolate := false } 1 = 0 ∧ targetGain humpLaw 1023 = 100 := by
  decide +kernel

theorem test_eight_good_pulses_lock :
    (afterAll (.setTimebase 1 1 (.present 50) :: (List.range 9).map (fun n => .syncPulse (n * 20000000))) stage).time.state = .locked ∧
    (afterAll (.setTimebase 1 1 (.present 50) :: (List.range 8).map (fun n => .syncPulse (n * 20000000))) stage).time.goodCount = 7 := by
  decide +kernel

theorem test_the_second_after_midnight :
    (afterAll [.setTime 1 86399 6, .dayClockAdvance] stage).time.second = 0 ∧
    (afterAll [.setTime 1 86399 6, .dayClockAdvance] stage).time.weekday = 0 := by decide +kernel

theorem test_open_autostarts : (slotOf (after (.openHouse 1) stage) 0).map (fun r => (r.showId, r.origin)) = some (5, .autostart) := by
  decide +kernel

theorem test_close_ends_features : slotOf (after (.closeHouse 1 { schedule := 1, trigger := 0 }) (playing 0 videoShow .running 3)) 0 = none := by
  decide +kernel

/-- The fourth sample of a run begins the alarm; a HUSH goes to the bus. -/
theorem test_alarm_entry :
    (afterAll (List.replicate 4 (.alarmLineSample true)) (playing 0 videoShow .running 3)).house.alarmState = .alarm ∧
    slotOf (afterAll (List.replicate 4 (.alarmLineSample true)) (playing 0 videoShow .running 3)) 0 = none ∧
    (afterAll (List.replicate 4 (.alarmLineSample true)) stage).bus.job.map (fun j => j.tx.kind) = some .hush ∧
    (afterAll (List.replicate 3 (.alarmLineSample true)) stage).house.alarmState = .normal := by decide +kernel

theorem test_resume : replySent (after (.resume 1) alarmHeld) = some (.ok 1 34 (.resumed 0)) := by decide +kernel

theorem test_reset_goes_first : (after (.reset 1) stage).bus.job.map (fun j => j.tx.kind) = some .hush ∧
    (after (.reset 1) stage).bus.queue.map (fun t => t.node) = [1, 32] := by decide +kernel

/-! ### The hypotheses of the statements are met: power, load and the host link -/

/-- A part that sends a frame, with replies and notices of a number. -/
def sending (replies notices : Nat) (p : Blocks) : Blocks :=
  { p with link := { p.link with
      replies := List.replicate replies (.frameReject .gap), notices := List.replicate notices .storeEmpty
      transmitting := some (.reply (.frameReject .gap)) } }

/-- Requests wait, all of them GET-TIME. -/
def waiting (n : Nat) (p : Blocks) : Blocks :=
  { p with link := { p.link with requests := List.replicate n { tag := 1, kind := 28, content := .request .getTime } } }

/-- Replies wait, and the transmitter is idle. -/
def backed (n : Nat) (p : Blocks) : Blocks := { p with link := { p.link with replies := List.replicate n (.frameReject .gap) } }

/-- A save writes area A. -/
def savingStage : Blocks := after (.saveStore 3) stage

/-- The receive assembler stands in a state. -/
def assembling (a : Assembler) (p : Blocks) : Blocks := { p with link := { p.link with assembler := a } }

def image (g : Nat) : Image := { generation := g, settings := stageSettings }

theorem witness_AnEmptyQueueIdles : (holding stage).pending = [] := rfl

theorem witness_ALoadEndsWithTheNewerImage :
    (∀ p ∈ [State.reset.part, Blocks.loadBegins (some (image 0)) none none 0, Blocks.loadBegins none (some (image 1)) none 0,
        Blocks.loadBegins (some (image 0)) (some (image 65535)) (some .b) 0, Blocks.loadBegins (some (image 7)) (some (image 7)) none 0,
        Blocks.loadBegins (some (image 65535)) (some (image 0)) (some .a) 0],
      p.store.loading = true ∧ p.link.requests = [] ∧ p.link.replies = [] ∧ p.link.notices = [] ∧ p.link.transmitting = none) ∧
    (image 0).generation = ((image 65535).generation + 1) % 65536 ∧
    ((waiting 1 State.reset.part).store.loading = true ∧ arrivalOf (.getTime 1) = some (1, .getTime) ∧
      (waiting 1 State.reset.part).link.requests = [{ tag := 1, kind := kindOfRequest .getTime, content := .request .getTime }] ∧
      (waiting 1 State.reset.part).store.save = none ∧ (waiting 1 State.reset.part).link.replies.length < 8) ∧
    (State.reset.part.bus.job = none ∧ State.reset.part.bus.queue = [] ∧
      ((List.range 33).filter (fun m => 1 ≤ m ∧ nodeReferenced Settings.initial m)).map pollTx = [] ∧
      ((List.range 33).filter (fun m => 1 ≤ m ∧ nodeReferenced stageSettings m)).map pollTx = pollTx 1 :: [pollTx 32]) := by decide +kernel

theorem witness_ARequestWaitsOrIsTurnedAway :
    arrivalOf (.getTime 9) = some (9, .getTime) ∧
    ((sending 8 0 bare).link.requests = [] ∧ 8 ≤ (sending 8 0 bare).link.replies.length) ∧
    ((waiting 3 State.reset.part).link.replies.length < 8 ∧ (waiting 3 State.reset.part).store.loading = true ∧
      (waiting 3 State.reset.part).link.requests.length < 4) ∧
    ((waiting 4 (sending 7 0 savingStage)).link.replies.length < 8 ∧ (waiting 4 (sending 7 0 savingStage)).store.save ≠ none ∧
      4 ≤ (waiting 4 (sending 7 0 savingStage)).link.requests.length) ∧
    ((waiting 1 (sending 7 0 stage)).store.save = none ∧ (waiting 1 (sending 7 0 stage)).link.requests ≠ [] ∧
      (waiting 1 (sending 7 0 stage)).link.replies.length < 8) ∧
    ((waiting 4 (backed 8 stage)).link.requests ≠ [] ∧ 8 ≤ (waiting 4 (backed 8 stage)).link.replies.length ∧
      (waiting 4 (backed 8 stage)).link.transmitting = none) ∧
    (∀ p ∈ [waiting 1 State.reset.part, waiting 1 savingStage, waiting 1 (sending 8 0 stage)], p.link.requests ≠ [] ∧
      (p.store.loading = true ∨ p.store.save ≠ none ∨ 8 ≤ p.link.replies.length ∧ p.link.transmitting ≠ none)) ∧
    isReady stage = true := by decide +kernel

theorem witness_TheAssemblerTakesBytes :
    (∀ a ∈ [Assembler.hunting, .length, .body 252 [], .body 2 [1, 28, 0]], (assembling a bare).link.requests = [] ∧
      (assembling a bare).link.assembler = a) ∧
    ((0xA4 : Byte) ≠ 0xA5) ∧ 2 ≤ (2 : Byte).toNat ∧ (252 : Byte).toNat ≤ 252 ∧ (1 : Byte).toNat < 2 ∧ 252 < (253 : Byte).toNat ∧
    (sending 7 0 bare).link.replies.length < 8 ∧ (∀ a ∈ [Assembler.length, .body 2 [1, 28, 0]], (assembling a (sending 8 0 bare)).link.requests = [] ∧
      (assembling a (sending 8 0 bare)).link.assembler = a ∧ 8 ≤ (assembling a (sending 8 0 bare)).link.replies.length) ∧ ([] : List Byte).length + 1 < 252 + 2 ∧
    (([1, 28] : List Byte) ++ (crcBytes [2, 1, 28]).take 1) ++ (crcBytes [2, 1, 28]).drop 1 = 1 :: 28 :: [] ++ crcBytes [2, 1, 28] ∧
    ([0, 0] : List Byte) ≠ crcBytes [2, 1, 28] ∧
    -- a frame of a request, of no kind, of a wrong length, of a form byte of 2
    (readRequest 28 [] = .request .getTime ∧ arrivalOf (.getTime 1) = some (1, .getTime)) ∧
    (readRequest 39 [] = .unknownKind ∧ readRequest 28 [0] = .badLength ∧ readRequest 24 (0 :: 2 :: List.replicate 22 0) = .badForm) ∧
    (bare.store.loading = false ∧ bare.link.replies.length < 8 ∧ isReady (assembling (.body 2 [1, 28, 0]) bare) = true) ∧
    -- a frame arrives: three, and four, that wait; seven replies, and eight; the settings load
    ((waiting 3 bare).link.requests.length < 4 ∧ 4 ≤ (waiting 4 bare).link.requests.length ∧ 8 ≤ (sending 8 0 bare).link.replies.length ∧
      State.reset.part.store.loading = true ∧ State.reset.part.link.replies.length < 8) := by decide +kernel

theorem witness_RepliesGoBeforeNotices :
    (sending 1 32 bare).link.requests = [] ∧ (sending 1 32 bare).link.replies = [.frameReject .gap] ∧
    (sending 0 1 bare).link.replies = [] ∧ (sending 0 1 bare).link.notices = [.storeEmpty] ∧
    (sending 0 0 bare).link.replies = [] ∧ (sending 0 0 bare).link.notices = [] ∧
    (sending 0 0 bare).link.transmitting = some (.reply (.frameReject .gap)) ∧
    (∀ p ∈ [waiting 2 (sending 8 0 stage)], p.store.loading = false ∧ p.store.save = none ∧ p.link.requests.length = 2 ∧
      p.link.replies.length = 8) ∧
    (State.reset.part.store.loading = true ∧ savingStage.store.save ≠ none) ∧
    (exec .frameGap (holding (sending 8 32 bare)) = .next (holding (after .frameGap (sending 8 32 bare))) ∧
      (sending 8 32 bare).link.transmitting.isSome = true) :=
  ⟨rfl, rfl, rfl, rfl, rfl, rfl, rfl, by decide +kernel, by decide +kernel, rfl, rfl⟩

theorem witness_TheNoticeQueueHolds32 :
    (sending 0 31 bare).link.notices.length < 32 ∧ 32 ≤ (sending 0 32 bare).link.notices.length ∧
    (putNotice .storeEmpty bare).link.transmitting = none ∧ (putNotice .storeEmpty bare).link.replies = [] ∧
    (putNotice .storeEmpty bare).link.notices = [.storeEmpty] ∧ isReady (sending 0 32 bare) = true := by decide +kernel

/-! ### The cue store -/

def plainHeader : ShowHeader := videoShow.toShowHeader

/-- The header at the ends of its ranges. -/
def widestHeader : ShowHeader :=
  { plainHeader with
    label := List.replicate 12 126, length := 720000, plays := 255, primeTimeout := 100, rest := 3600, leader := some 1, tied := true }

theorem witness_DefineShowWritesTheHeader :
    (Ready stage ∧ showActive stage 9 = false ∧ HeaderAccepted stage 9 widestHeader) ∧
    (63 < 64 ∧ 3 < (4 : Nat)) ∧ (showActive (playing 0 videoShow .running 3) 0 = true ∧ Ready (playing 0 videoShow .running 3)) ∧
    ¬ HeaderAccepted stage 9 { plainHeader with length := 0 } := by
  refine ⟨⟨stage_ready, by decide +kernel, ?_⟩, by decide, ⟨by decide +kernel, playing_ready⟩, fun h => absurd h.length.1 (by decide)⟩
  have unled : ∀ f sh, showOf stage f = some sh → sh.leader ≠ some 9 := by
    intro f sh h
    by_cases hf : f < 64
    · have := (by decide +kernel : ∀ f < 64, (showOf stage f).all (fun sh => decide (sh.leader ≠ some 9)) = true) f hf
      rw [h] at this
      simpa using this
    · have : showOf stage f = none := by
        unfold showOf tget
        rw [List.getD_eq_default _ _ (by simp; omega)]
        rfl
      simp [this] at h
  refine ⟨by decide, ⟨by decide, by decide, by decide, by decide +kernel⟩, by decide, by decide, by decide, by decide, by decide, by decide,
    fun l hl => ?_, fun hc => absurd hc (by decide)⟩
  obtain rfl : 1 = l := by simpa [widestHeader] using hl
  refine ⟨by decide, by decide, by decide, unled, ?_⟩
  have : showOf stage 1 = some lightShow := by decide +kernel
  intro sh h
  rw [this] at h
  cases h
  decide

theorem witness_AppendCuesAddsInOrder :
    (Ready stage ∧ showOf stage 1 = some lightShow ∧ showActive stage 1 = false ∧
      cueAccepted stage lightShow { offset := 10, action := .scene 0 999 6000 } ∧ lastOffset lightShow ≤ 10 ∧
      cuesUsed stage.store.settings + 1 ≤ 4096) ∧
    showOf stage 62 = none ∧ (Ready (playing 0 videoShow .running 3) ∧ showActive (playing 0 videoShow .running 3) 0 = true) ∧
    (12 < 13 ∧ 6 < 7 ∧ ¬ cueAccepted stage lightShow { offset := 11, action := .mark 0 } ∧ ¬ lastOffset lightShow ≤ 9) ∧
    512 < ({ lightShow with cues := List.replicate 512 { offset := 0, action := .mark 0 } } : ShowRecord).cues.length + 1 := by
  refine ⟨⟨stage_ready, by decide +kernel, by decide +kernel, ⟨by decide, by decide, by decide, by decide, ?_⟩, by decide, by decide +kernel⟩,
    by decide +kernel, ⟨playing_ready, by decide +kernel⟩, ⟨by decide, by decide, fun h => absurd h.1 (by decide), by decide⟩, by decide +kernel⟩
  exact ⟨1, { gallery := 0, kind := .light, node := 1, nodeChannel := 1 }, by decide +kernel, by decide +kernel, by decide⟩

theorem witness_EraseShowEmptiesThePlace :
    Ready stage ∧ 63 < 64 ∧ showOf stage 62 = none ∧ (showOf stage 63 = some { videoShow with cues := [] } ∧ showActive stage 63 = false) ∧
    (Ready (playing 0 videoShow .running 3) ∧ showActive (playing 0 videoShow .running 3) 0 = true) :=
  ⟨stage_ready, by decide, by decide +kernel, by decide +kernel, playing_ready, by decide +kernel⟩

theorem witness_ReadShowReturnsWhatIsStored :
    Ready stage ∧ 63 < 64 ∧ showOf stage 62 = none ∧ showOf stage 1 = some lightShow ∧ lightShow.cues.length < 3 ∧ 2 ≤ lightShow.cues.length :=
  ⟨stage_ready, by decide +kernel⟩

/-- The stage with an image noted as current. -/
def noted (ar : Area) : Blocks := { stage with store := { setImage ar (some (image 65535)) stage.store with note := some ar } }

theorem witness_ASaveWritesTheOtherArea :
    (Ready stage ∧ stage.store.note = none) ∧ (Ready (noted .a) ∧ (noted .a).store.note = some .a ∧ (noted .a).store.areaA = some (image 65535)) ∧
    (Ready (noted .b) ∧ (noted .b).store.note = some .b ∧ (noted .b).store.areaB = some (image 65535)) ∧
    (waiting 4 savingStage).store.save ≠ none ∧ savingStage.link.requests = [] ∧ savingStage.store.save.map (fun j => (j.tag, j.area, j.image.generation)) = some (3, .a, 1) :=
  ⟨⟨stage_ready, rfl⟩, ⟨ready_of (by decide +kernel), rfl, rfl⟩, ⟨ready_of (by decide +kernel), rfl, rfl⟩, by decide +kernel, by decide +kernel, by decide +kernel⟩

/-! ### The channel map and the readers -/

theorem witness_SetChannelWritesTheEntry :
    Ready stage ∧ 127 < 128 ∧ 1 < 2 ∧ ¬ entryInRange (some { gallery := 0, kind := .video, node := 33, nodeChannel := 0 }) ∧
    (entryInRange (some { gallery := 15, kind := .video, node := 32, nodeChannel := 7 }) ∧
      channelEntry stage 127 = some { gallery := 15, kind := .effect, node := 32, nodeChannel := 7 }) ∧
    (unmapsOrRekinds (channelEntry stage 0) none = true ∧ channelListed stage.store.settings 0 = true) ∧
    (unmapsOrRekinds (channelEntry stage 127) none = true ∧ channelListed stage.store.settings 127 = false) ∧
    (movesNode (channelEntry stage 0) (some { gallery := 0, kind := .video, node := 1, nodeChannel := 7 }) = true ∧
      ownersOf (playing 0 videoShow .running 3) 0 ≠ [] ∧ ownersOf stage 0 = [] ∧ isReady (playing 0 videoShow .running 3) = true) := by
  refine ⟨stage_ready, ?_⟩
  unfold entryInRange
  decide +kernel

theorem witness_ReadersChangeNothing :
    Ready (playing 0 videoShow .running 3) ∧ (127 < 128 ∧ 127 ≤ 127) ∧ (lawOn stage 0 = none ∧ lawOn (after (.setLaw 1 goodLaw) stage) 0 ≠ none) ∧
    (15 < 16 ∧ slotOf (playing 0 videoShow .running 3) 15 = none ∧
      slotOf (playing 0 videoShow .running 3) 0 = some (onAir 0 videoShow .running 3)) ∧ 2 < 3 ∧ 31 < 32 ∧ 63 < 64 ∧ 95 < 96 :=
  ⟨playing_ready, by decide +kernel⟩

/-! ### Starts, stops and releases -/

/-- Every slot is taken, by shows that are not defined. -/
def crowded : Blocks := (List.range 16).foldl (fun p k => setSlot k (some (onAir (40 + k) videoShow .running 3)) p) stage

/-- Show 0 has ended and its rest timer runs. -/
def rested : Blocks := after (.stop 1 0) (playing 0 videoShow .running 3)

theorem witness_StartIsRefusedInOrder :
    Ready stage ∧ Ready alarmed ∧ 1 < 2 ∧ 63 < 64 ∧ showOf stage 62 = none ∧ (showOf stage 3 = some overrideShow ∧ overrideShow.cls = .override) ∧
    (showOf alarmed 0 = some videoShow ∧ videoShow.cls ≠ .override ∧ alarmed.house.alarmState ≠ .normal) ∧
    (showOf stage 63 = some { videoShow with cues := [] } ∧ stage.house.alarmState = .normal) ∧
    (slotHolding (playing 0 videoShow .suspended 3) 0 = some 0 ∧
      slotOf (playing 0 videoShow .suspended 3) 0 = some (onAir 0 videoShow .suspended 3) ∧ isReady (playing 0 videoShow .suspended 3) = true) ∧
    (isReady crowded = true ∧ slotHolding crowded 0 = none ∧ ∀ k < 16, slotOf crowded k ≠ none) ∧
    -- the rest timer runs; a show that runs is restarted by neither a set nor an autostart; the override under alarm
    ((tget rested.runner.rest 0 : Option Timer) ≠ none ∧ showOf rested 0 = some videoShow ∧ rested.house.alarmState = .normal) ∧
    (∀ o ∈ [Origin.trigger 0, .trigger 63, .schedule 95, .showSet 15, .autostart], (startShow 0 o false rested).1 = .refused .resting .check) ∧
    (∀ o ∈ [Origin.showSet 15, .schedule 95, .autostart], o ≠ .link ∧ ∀ n < 64, o ≠ .trigger n) ∧
    (showOf alarmed 3 = some overrideShow ∧ overrideShow.cues ≠ [] ∧ slotHolding (playing 3 overrideShow .running 3) 3 = some 0) :=
  ⟨stage_ready, alarmed_ready, by decide +kernel⟩

theorem passes_of {p : Blocks} {id : Nat} {o : Origin} {sh : ShowRecord}
    (h : (id ≤ 63 ∧ showOf p id = some sh ∧ sh.cues ≠ []) ∧ (sh.cls ≠ .override ∨ o = .alarm) ∧ (p.house.alarmState = .normal ∨ o = .alarm) ∧
      (o = .link ∨ o = .alarm ∨ (tget p.runner.rest id : Option Timer) = none)) : StartPasses p id o sh :=
  ⟨h.1.1, h.1.2.1, h.2.1, h.2.2.1, h.1.2.2, h.2.2.2.elim (fun e => by subst e; exact .inl (by simp))
    fun g => g.elim (fun e => by subst e; exact .inl (by simp)) .inr⟩

theorem takes_of {p : Blocks} {id k : Nat} (h : slotHolding p id = none ∧ k < 16 ∧ slotOf p k = none ∧ ∀ j < k, slotOf p j ≠ none) : Takes p id k :=
  ⟨h.1, h.2.1, h.2.2.1, h.2.2.2⟩

/-- Every kind of origin but LEADER and ALARM, at the greatest number. -/
def origins : List Origin := [.link, .trigger 63, .schedule 95, .showSet 15, .autostart]

theorem witness_AFailedClaimWaitsOrIsRefused :
    Ready (playing 2 markShow .running 3) ∧
    (∀ o ∈ origins, StartPasses (playing 2 markShow .running 3) 0 o videoShow ∧ StartPasses (playing 2 markShow .running 3) 4 o refusing) ∧
    StartPasses rested 0 .link videoShow ∧ StartPasses (alarmed) 3 .alarm overrideShow ∧
    (Takes (playing 2 markShow .running 3) 0 1 ∧ Takes (playing 2 markShow .running 3) 4 1) ∧ (videoShow.conflict = .wait ∧ refusing.conflict = .refuse) ∧
    ∃ ch ∈ videoShow.channels, (topEntry (playing 2 markShow .running 3) ch).any (fun e => decide (videoShow.cls.rank ≤ e.cls.rank)) = true := by
  have h : ∀ o ∈ origins, o = .link ∨ o = .alarm ∨ (tget (playing 2 markShow .running 3).runner.rest 0 : Option Timer) = none ∧
      (tget (playing 2 markShow .running 3).runner.rest 4 : Option Timer) = none := by decide +kernel
  exact ⟨ready_of (by decide +kernel), fun o ho => ⟨passes_of ⟨by decide +kernel, .inl (by decide), .inl (by decide +kernel), (h o ho).imp id (Or.imp id And.left)⟩,
    passes_of ⟨by decide +kernel, .inl (by decide), .inl (by decide +kernel), (h o ho).imp id (Or.imp id And.right)⟩⟩, passes_of (by decide +kernel), passes_of (by decide +kernel),
    ⟨takes_of (by decide +kernel), takes_of (by decide +kernel)⟩, by decide +kernel⟩

theorem nobody_leads {id : Nat} (h : ∀ f < 64, (showOf stage f).all (fun sh => decide (sh.leader ≠ some id)) = true) :
    ∀ f sf, showOf stage f = some sf → sf.leader ≠ some id := by
  intro f sf hs
  by_cases hf : f < 64
  · have := h f hf
    rw [hs] at this
    simpa using this
  · have : showOf stage f = none := by
      unfold showOf tget
      rw [List.getD_eq_default _ _ (by simp; omega)]
      rfl
    simp [this] at hs

/-- The light show of class FEATURE is on air on channel 1. -/
def underLight : Blocks := after (.start 1 1 0) stage

/-- Slot `k` has been taken by a show and requests its claim. -/
def asking (k id : Nat) (sh : ShowRecord) (p : Blocks) : Blocks := setSlot k (some (SlotRec.taken id sh .link)) p

theorem witness_AClaimOfFreeChannelsIsGranted :
    Ready stage ∧ (∀ f sf, showOf stage f = some sf → sf.leader ≠ some 0) ∧ (∀ f sf, showOf stage f = some sf → sf.leader ≠ some 1) ∧ Ready underLight ∧
    (showOf stage 0 = some videoShow ∧ primeList stage videoShow ≠ []) ∧ (showOf stage 1 = some lightShow ∧ primeList stage lightShow = []) ∧
    (∀ o ∈ origins, o ≠ .alarm ∧ StartPasses stage 0 o videoShow ∧ StartPasses stage 1 o lightShow) ∧ Takes stage 0 0 ∧ Takes stage 1 0 ∧
    (StartPasses underLight 2 (.trigger 63) markShow ∧ Takes underLight 2 1) ∧ stage.runner.groups = [] ∧
    (∀ ch ∈ videoShow.channels ++ lightShow.channels, ch < 128 ∧ ownersOf stage ch = []) ∧
    ((∀ ch ∈ markShow.channels, ∀ e, topEntry underLight ch = some e → e.cls.rank < markShow.cls.rank) ∧
      (topEntry underLight 1).isSome = true) ∧
    (slotOf (asking 1 0 videoShow (playing 5 yielding .running 3)) 1 = some (SlotRec.taken 0 videoShow .link) ∧
      (coveredBy (asking 1 0 videoShow (playing 5 yielding .running 3)) videoShow.channels).filter (yields (playing 5 yielding .running 3)) = [0] ∧
      coveredBy (asking 1 2 markShow underLight) markShow.channels = [0]) ∧
    (claimStands (grant pendingScan 1 (asking 1 2 markShow underLight)) 1 = true ∧ claimStands stage 1 = false) :=
  ⟨stage_ready, nobody_leads (by decide +kernel), nobody_leads (by decide +kernel), ready_of (by decide +kernel), by decide +kernel, by decide +kernel,
    fun o ho => ⟨(by decide : ∀ o ∈ origins, o ≠ .alarm) o ho, passes_of ⟨by decide +kernel, .inl (by decide), .inl rfl, .inr (.inr (by decide +kernel))⟩,
      passes_of ⟨by decide +kernel, .inl (by decide), .inl rfl, .inr (.inr (by decide +kernel))⟩⟩,
    takes_of (by decide +kernel), takes_of (by decide +kernel), ⟨passes_of (by decide +kernel), takes_of (by decide +kernel)⟩, by decide +kernel⟩

theorem witness_ARestartBeginsAgain :
    Ready (playing 0 videoShow .running 3) ∧ (StartPasses (playing 0 videoShow .running 3) 0 .link videoShow ∧
      StartPasses (playing 0 videoShow .running 3) 0 (.trigger 63) videoShow) ∧ (showOf (playing 0 videoShow .running 3) 0 = some videoShow ∧
      slotHolding (playing 0 videoShow .running 3) 0 = some 0 ∧
      slotOf (playing 0 videoShow .running 3) 0 = some (onAir 0 videoShow .running 3) ∧ (onAir 0 videoShow .running 3).state = .running) :=
  ⟨playing_ready, ⟨passes_of (by decide +kernel), passes_of (by decide +kernel)⟩, by decide +kernel⟩

theorem witness_StopEndsTheSlot :
    Ready (playing 0 videoShow .running 3) ∧ Ready stage ∧ 63 < 64 ∧ showOf stage 62 = none ∧ slotHolding stage 63 = none ∧
    (showOf (playing 0 videoShow .running 3) 0 = some videoShow ∧ slotHolding (playing 0 videoShow .running 3) 0 = some 0 ∧
      slotOf (playing 0 videoShow .running 3) 0 = some (onAir 0 videoShow .running 3) ∧
      (playing 0 videoShow .running 3).map.waitOrder = [] ∧ slotOf (playing 0 videoShow .running 3) 15 = none) ∧
    (tiedTo tiedUp [0] = [1] ∧ tiedTo grouped [0] = []) ∧
    (slotOf (playing 0 videoShow .priming 1) 0 = some (onAir 0 videoShow .priming 1) ∧ showOf (playing 0 videoShow .priming 1) 0 = some videoShow ∧
      ((primeList (playing 0 videoShow .priming 1) videoShow).map (fun c => c.1)).filter (fun ch => ch ∉ (onAir 0 videoShow .priming 1).missing) = [0]) ∧
    EndReason.stopped ≠ .yielded ∧ (onAir 0 videoShow .running 3).state ≠ .priming :=
  ⟨playing_ready, stage_ready, by decide +kernel⟩

theorem witness_ReleaseEndsTheHold :
    (Ready stage ∧ 63 < 64 ∧ showOf stage 62 = none) ∧
    (Ready (playing 0 videoShow .running 3) ∧ showOf (playing 0 videoShow .running 3) 0 ≠ none ∧
      slotOf (playing 0 videoShow .running 3) 0 = some (onAir 0 videoShow .running 3) ∧ (onAir 0 videoShow .running 3).state ≠ .held) ∧
    (Ready (playing 0 videoShow .held 3) ∧ showOf (playing 0 videoShow .held 3) 0 ≠ none ∧ slotHolding (playing 0 videoShow .held 3) 0 = some 0 ∧
      slotOf (playing 0 videoShow .held 3) 0 = some (onAir 0 videoShow .held 3) ∧ (onAir 0 videoShow .held 3).state = .held) :=
  ⟨⟨stage_ready, by decide +kernel⟩, ⟨playing_ready, by decide +kernel⟩, ready_of (by decide +kernel), by decide +kernel⟩

theorem witness_StopGalleryEndsItsSlots :
    Ready (playing 0 videoShow .running 3) ∧ 15 < 16 ∧ gallerySlots (playing 0 videoShow .running 3) 0 = [0] ∧
    (gallerySlots (playing 0 videoShow .running 3) 15 = [] ∧ (playing 0 videoShow .running 3).runner.groups = [] ∧
      (playing 0 videoShow .running 3).runner.foresight = .idle ∧ (playing 0 videoShow .running 3).map.waitOrder = []) :=
  ⟨playing_ready, by decide, by decide +kernel, by decide +kernel⟩

/-! ### The bus, the trigger unit and the level unit -/

/-- A PLAY of show 0's cue for slot 0 on node 1. -/
def aPlay : Transaction :=
  { node := 1, nodeChannel := some 0, channel := some 0, kind := .play 9 50 true false 0, cls := .feature, origin := some 0, cueIndex := some 0,
    owner := some 0, toggle := none, attempts := 0 }

/-- A transaction on the bus at an attempt, with one retry. -/
def onBus (t : Transaction) (attempt : Nat) (p : Blocks) : Blocks :=
  { p with bus := { p.bus with
      job := some { tx := { t with toggle := if t.kind = .hush then none else some false, attempts := attempt }, timeout := 4, retries := 1 } } }

/-- The bus queue filled with a number of POLLs of an unreferenced node. -/
def queued (n : Nat) (p : Blocks) : Blocks := { p with bus := { p.bus with queue := List.replicate n (pollTx 5) } }

theorem witness_SetBusActsFromTheNextTransaction :
    Ready stage ∧ (0 < 1 ∧ 20 < 21 ∧ 2 < 3) ∧ (queued 1 stage).store.loading = false ∧ (queued 1 stage).bus.job = none ∧
    (queued 1 stage).bus.queue = [pollTx 5] ∧ (onBus aPlay 1 stage).link.requests = [] ∧
    ((onBus aPlay 1 stage).bus.job.map (fun j => decide (j.tx.kind ≠ .hush ∧ j.tx.attempts ≤ j.retries))) = some true :=
  ⟨stage_ready, by decide, rfl, rfl, rfl, rfl, by decide +kernel⟩

def repeating : LineSettings :=
  { enabled := true, activeLevel := .high, edge := .both, stableCount := 64, repeatDelay := 5000, repeatInterval := 2000, report := true, wake := true }

theorem witness_SetLineWritesTheSettings :
    Ready stage ∧ 31 < 32 ∧ ¬ LineAccepted { repeating with stableCount := 65 } ∧ LineAccepted repeating ∧ LineAccepted LineSettings.initial ∧
    (tget stage.store.settings.lines 31).activeLevel ≠ repeating.activeLevel ∧
    (tget stage.store.settings.lines 31).repeatDelay ≠ 5000 :=
  ⟨stage_ready, by decide, fun h => absurd h.stableCount.2 (by decide), ⟨by decide, by decide, by decide, by decide⟩,
    ⟨by decide, by decide, by decide, by decide⟩, by decide +kernel, by decide +kernel⟩

def noteRoute : RouteSettings := { RouteSettings.initial with enabled := true, rearm := 600 }
def setRoute15 : RouteSettings := { noteRoute with action := .startSet, target := some 15, rearm := 0 }

/-- Source 63 is pending. -/
def pendingAt63 (p : Blocks) : Blocks := withSource 63 { pending := true, rearm := none, direction := none } p

theorem witness_SetRouteWritesAndMayTake :
    Ready stage ∧ 63 < 64 ∧ routeAccepted noteRoute ∧ routeAccepted setRoute15 ∧ ¬ routeAccepted { setRoute15 with target := some 16 } ∧
    (Ready (pendingAt63 opened) ∧ (tget (pendingAt63 opened).trigger.sources 63).pending = true ∧ opened.house.mode = .opened ∧
      opened.house.alarmState = .normal) ∧ stage.house.mode = .closed := by
  refine ⟨stage_ready, by decide, ⟨by decide, rfl⟩, ⟨by decide, 15, rfl, by decide⟩, fun h => ?_, ⟨ready_of (by decide +kernel), by decide +kernel,
    rfl, rfl⟩, rfl⟩
  obtain ⟨n, hn, h15⟩ := h.2
  cases hn
  exact absurd h15 (by decide)

theorem witness_ClearPendingClearsTheChosen : Ready (pendingAt63 stage) ∧ (tget (pendingAt63 stage).trigger.sources 63).pending = true :=
  ⟨ready_of (by decide +kernel), by decide +kernel⟩

theorem witness_SetsAreWrittenAndStarted :
    Ready stage ∧ (15 < 16 ∧ 8 < 9 ∧ 1 < 2 ∧ 63 < 64) ∧ (∀ id ∈ [0, 63], id ≤ 63) ∧ (Ready alarmed ∧ alarmed.house.alarmState ≠ .normal) ∧
    (tget stage.store.settings.sets 14 : Option SetSettings) = none ∧
    tget stage.store.settings.sets 0 = some ({ shows := [1, 2], mode := .cycle } : SetSettings) ∧ (tget stage.trigger.pointers 0 : Nat) = 0 ∧
    (startShow 1 (.showSet 0) false stage).1 = .accepted 0 .claimed ∧ (startShow 1 (.showSet 0) false alarmed).1 = .refused .alarm .check ∧
    tget stage.store.settings.sets 1 = some ({ shows := [1], mode := .all } : SetSettings) ∧
    tget stage.store.settings.sets 15 = some ({ shows := [1, 2], mode := .all } : SetSettings) ∧
    tget stage.store.settings.sets 7 = some ({ shows := [1, 2, 1, 62, 0, 3, 4, 5], mode := .all } : SetSettings) ∧
    ([1, 2] : List Nat)[0]? = some 1 :=
  ⟨stage_ready, by decide, by decide, ⟨alarmed_ready, by decide +kernel⟩, by decide +kernel⟩

theorem witness_ClearLevelFlagsClearsTheChosen :
    Ready stage ∧ (tget stage.level.galleries 15).stuckFlag = false ∧ stage.house.alarmState = .normal := ⟨stage_ready, by decide +kernel⟩

theorem witness_LevelsAreReadAndThresholdsWritten :
    Ready stage ∧ (15 < 16 ∧ 15 ≤ 15) ∧ (1023 < 1024 ∧ (0 : Nat) ≤ 0 ∧ 1 ≤ 9 ∧ 255 < 256) ∧ (1023 ≤ 1023 ∧ 0 < 1023 ∧ 10 ≤ 255) :=
  ⟨stage_ready, by decide, by decide, by decide⟩

theorem humpLaw_accepted : LawAccepted humpLaw :=
  ⟨by decide, by decide, by decide, by simp [humpLaw], by decide, by decide⟩

theorem witness_SetLawWritesAndRemoves :
    Ready stage ∧ (127 < 128 ∧ 1 < 2) ∧ ¬ LawAccepted { humpLaw with upRate := 101 } ∧ LawAccepted humpLaw ∧
    (channelEntry stage 127 = some { gallery := 15, kind := .effect, node := 32, nodeChannel := 7 } ∧ channelEntry stage 126 = none) ∧
    (channelEntry stage 0 = some { gallery := 0, kind := .video, node := 1, nodeChannel := 0 } ∧ (tget stage.level.galleries 0).sample = none) ∧
    (Ready (after (.levelSample 0 2) stage) ∧ (tget (after (.levelSample 0 2) stage).level.galleries 0).sample = some 2 ∧
      lawFrozen (after (.levelSample 0 2) stage) 0 = false ∧ nodePresent (after (.levelSample 0 2) stage) 1 = true ∧
      trimOutstanding (after (.levelSample 0 2) stage) 0 = false) :=
  ⟨stage_ready, by decide, fun h => absurd h.rates.2.1 (by decide), humpLaw_accepted, by decide +kernel, by decide +kernel,
    ready_of (by decide +kernel), by decide +kernel⟩

/-! ### Time and the schedule -/

theorem witness_SetTimebaseWritesTheSource :
    Ready stage ∧ 1 < 2 ∧ (∀ n ∈ [24, 25, 30, 50, 60], (OptField.present 26) ≠ .present n) ∧ 60 ∈ [24, 25, 30, 50, 60] ∧
    stage.store.settings.source = .internal ∧ stage.store.settings.rate = none := ⟨stage_ready, by decide +kernel⟩

/-- The source is SYNC at 50 per second, the timebase as `f` makes it. -/
def synced (f : TimeUnit → TimeUnit) : Blocks :=
  { setSettings { stageSettings with source := .sync, rate := some 50 } stage with time := f stage.time }

def unlocked (good : Nat) : Blocks := synced (fun u => { u with state := .syncLost, goodCount := good, lastPulse := some 0 })
def locked : Blocks :=
  synced (fun u => { u with
    state := .locked, goodCount := 8, lastPulse := some 0
    grid := some { latest := 0, goodTime := 0, goodNumber := 0, interval := 20000000, nextIndex := 1 } })

theorem witness_SyncPulsesLockTheTimebase :
    (stage.link.requests = [] ∧ stage.store.settings.source = .internal) ∧
    (∀ p ∈ [unlocked 6, unlocked 7, locked], p.link.requests = [] ∧ p.store.loading = false ∧ p.store.settings.source = .sync ∧
      p.time.lastPulse = some 0 ∧ p.store.settings.rate.getD 25 = 50) ∧
    (synced id).time.lastPulse = none ∧ (unlocked 6).time.state = .syncLost ∧ (unlocked 6).time.goodCount + 1 < 8 ∧
    8 ≤ (unlocked 7).time.goodCount + 1 ∧ locked.time.state = .locked ∧ locked.time.grid.isSome = true ∧
    (900000000 ≤ (18000000 - 0) * 50 ∧ (22000000 - 0) * 50 ≤ 1100000000) ∧ ¬ 900000000 ≤ (17999999 - 0) * 50 ∧
    ¬ (22000001 - 0) * 50 ≤ 1100000000 := by decide +kernel

theorem witness_TheDayClockCounts :
    stage.time.fraction + 1 < 100 ∧ 100 ≤ 99 + 1 ∧ stage.time.valid = false ∧ State.reset.part.store.loading = true ∧
    (after (.setTime 1 0 0) stage).time.valid = true ∧ (after (.setTime 1 0 0) stage).store.loading = false ∧ stage.link.requests = [] ∧
    isReady stage = true ∧ 86399 < 86400 ∧ 6 < 7 := by decide +kernel

def wakeAll : WakeSet := { schedule := true, trigger := true }

theorem witness_ScheduleEntriesAreWrittenAndFire :
    Ready stage ∧ (95 < 96 ∧ 86399 < 86400 ∧ 4 < 5 ∧ 1 < 2) ∧ (∀ id ≤ 63, (OptField.absent) ≠ .present id) ∧
    entryAccepted { ScheduleEntry.initial with second := 86399, action := .closeHouse, wake := some wakeAll } ∧
    entryAccepted { ScheduleEntry.initial with action := .start, target := some 63 } ∧
    firingEntries (scheduled .openHouse none none stage) 86399 0 = [95] ∧
    (tget (scheduled .start (some 0) none alarmed).store.settings.entries 95).action = .start ∧ alarmed.house.alarmState ≠ .normal ∧
    (stage.house.mode = .closed ∧ opened.house.mode = .opened ∧ opened.house.alarmState = .normal ∧ stage.house.wake.schedule = true) ∧
    (startShow 0 (.schedule 95) false opened).1 = .accepted 0 .claimed ∧ (startShow 62 (.schedule 95) false opened).1 = .refused .noShow .check ∧
    slotHolding opened 0 = none ∧ slotHolding (playing 0 videoShow .running 3) 0 = some 0 ∧
    (closing wakeAll (.schedule 95) stage).1 = some 0 ∧
    (closing wakeAll (.schedule 95) (withSource 31 { pending := true, rearm := none, direction := none } stage)).1 = none := by
  refine ⟨stage_ready, by decide, fun id _ => by simp, ⟨by decide, rfl, by decide⟩, ⟨by decide, ⟨63, rfl, by decide⟩, rfl⟩, by decide +kernel⟩

/-! ### The house, the alarm and the immediate requests -/

theorem witness_CloseEndsTheShows :
    (stage.house.alarmState = .normal ∧ wakeAll.trigger = true ∧ (tget stage.store.settings.lines 31).wake = true ∧
      (tget (withSource 31 { pending := true, rearm := none, direction := none } stage).trigger.sources 31).pending = true) ∧
    alarmed.house.alarmState ≠ .normal ∧ (∀ l < 32, (tget stage.store.settings.lines l).wake = true → (tget stage.trigger.sources l).pending = false) ∧
    closedSlots (playing 0 videoShow .running 3) = [0] ∧ closedSlots stage = [] ∧ stage.runner.groups = [] ∧ stage.runner.foresight = .idle ∧ stage.map.waitOrder = [] ∧ isReady stage = true ∧ 1 < 2 ∧
    (closing wakeAll .link stage).1 = some 0 := by decide +kernel

theorem witness_OpenCarriesOutTheOpening :
    Ready stage ∧ (Ready alarmed ∧ alarmed.house.alarmState ≠ .normal) ∧ (Ready opened ∧ opened.house.mode = .opened) ∧
    (stage.house.alarmState = .normal ∧ stage.house.mode = .closed) :=
  ⟨stage_ready, ⟨alarmed_ready, by decide +kernel⟩, ⟨opened_ready, rfl⟩, rfl, rfl⟩

theorem prompt_stage : Prompt stage := ⟨rfl, by decide +kernel, .inl rfl⟩

theorem prompt_saving : Prompt (waiting 4 savingStage) := ⟨by decide +kernel, by decide +kernel, .inr (by decide +kernel)⟩

theorem witness_AcknowledgeAndResume :
    (Prompt stage ∧ stage.house.alarmState = .normal) ∧ (Prompt alarmHeld ∧ alarmHeld.house.alarmState ≠ .normal) ∧ Ready stage ∧
    (Ready alarmed ∧ alarmed.house.alarmState = .alarm) ∧ (Ready alarmHeld ∧ alarmHeld.house.alarmState = .alarmHeld ∧
      alarmHeld.house.acknowledged = true ∧ alarmHeld.store.settings.overrideShow = none ∧ alarmHeld.house.mode = .closed) ∧
    (housed (fun h => { h with acknowledged := false }) alarmHeld).house.acknowledged = false ∧
    (housed (fun h => { h with mode := .opened }) alarmHeld).house.mode = .opened ∧
    slotHolding (playing 3 overrideShow .running 3) 3 = some 0 :=
  ⟨⟨prompt_stage, rfl⟩, ⟨⟨rfl, by decide +kernel, .inl rfl⟩, by decide +kernel⟩, stage_ready, ⟨alarmed_ready, rfl⟩,
    ⟨held_ready, rfl, rfl, rfl, rfl⟩, rfl, rfl, by decide +kernel⟩

theorem witness_SetAlarmDesignatesTheOverride :
    Ready stage ∧ (63 < 64 ∧ 0 < 1 ∧ 60 < 61) ∧ (Ready alarmed ∧ alarmed.house.alarmState ≠ .normal) ∧ stage.house.alarmState = .normal ∧
    showOf stage 62 = none ∧ (showOf stage 0 = some videoShow ∧ videoShow.cls ≠ .override) ∧
    (showOf stage 3 = some overrideShow ∧ overrideShow.cls = .override) :=
  ⟨stage_ready, by decide, ⟨alarmed_ready, by decide +kernel⟩, by decide +kernel⟩

theorem witness_GetStatusReportsTheItems : Prompt stage ∧ Prompt (waiting 4 savingStage) := ⟨prompt_stage, prompt_saving⟩

theorem witness_StopAllEndsEverySlot :
    (Prompt stage ∧ Prompt (waiting 4 savingStage)) ∧ (playing 0 videoShow .running 3).link.notices.length ≤ 16 ∧
    slotOf (playing 0 videoShow .running 3) 0 = some (onAir 0 videoShow .running 3) ∧ showOf (playing 0 videoShow .running 3) 0 = some videoShow :=
  ⟨⟨prompt_stage, prompt_saving⟩, by decide +kernel⟩

theorem witness_ResetKeepsTheStore :
    (∀ p ∈ [stage, onBus aPlay 1 stage, waiting 4 (sending 7 32 savingStage)], p.store.loading = false ∧ p.link.replies.length < 8) ∧
    stage.bus.job = none ∧ (onBus aPlay 1 stage).bus.job.isSome = true := by decide +kernel

/-! ### Ticks and timers -/

/-- Some takers have the last tick still in hand. -/
def lagging (ts : List TickTaker) : Blocks := { stage with time := { stage.time with inHand := ts } }

theorem witness_AShowTickReachesEveryTaker :
    stage.time.inHand = [] ∧ stage.time.state ≠ .locked ∧ locked.time.state = .locked ∧ locked.time.grid.isSome = true ∧
    State.reset.part.store.loading = true ∧ stage.store.loading = false ∧
    (TickTaker.slot 15 ∈ (lagging [.slot 15, .dayClock]).time.inHand ∧ TickTaker.polling ∉ (lagging [.slot 15, .dayClock]).time.inHand) ∧
    TickTaker.slot 15 ∈ allTakers ∧ TickTaker.slot 16 ∉ allTakers := by decide +kernel

/-- Slot 15 holds show 0 as `f` makes its record. -/
def slotted (f : SlotRec → SlotRec) : Blocks := setSlot 15 (some (f (onAir 0 videoShow .running 3))) stage

theorem witness_ASlotCountsTicks :
    slotOf stage 15 = none ∧ slotOf (slotted id) 15 = some (onAir 0 videoShow .running 3) ∧ (slotted id).link.requests = [] ∧
    showOf (slotted id) 0 = some videoShow ∧ (onAir 0 videoShow .running 3).began = false ∧
    ((slotOf (slotted (fun r => { r with began := true })) 15).map (fun r => r.began) = some true) ∧
    (∀ d ∈ [1, 2], ∀ b ∈ [true, false], (slotOf (slotted (fun r => { r with state := .held, deadline := some d, began := b })) 15).map
      (fun r => (r.deadline, r.began)) = some (some d, b)) ∧
    (∀ t ∈ [1, 2], (slotOf (slotted (fun r => { r with state := .priming, primeTimer := some t })) 15).map (fun r => r.primeTimer) = some (some t)) ∧
    (slotOf (slotted (fun r => { r with state := .suspended })) 15).map (fun r => r.state) = some .suspended := by decide +kernel

theorem witness_DueCuesFireInOrder :
    (slotOf (slotted id) 15 = some (onAir 0 videoShow .running 3) ∧ showOf (slotted id) 0 = some videoShow) ∧
    (slotOf (slotted (fun r => { r with state := .held })) 15).map (fun r => decide (r.state ≠ .running)) = some true ∧
    videoShow.cues.length ≤ 1 ∧ videoShow.cues[0]? = some { offset := 0, action := .play 0 9 50 true } ∧
    (lightShow.cues[1]? = some { offset := 10, action := .hold 2 } ∧ 9 < 10) ∧ markShow.cues[0]? = some { offset := 0, action := .mark 255 } ∧
    ((CueAction.play 0 9 50 true).sends = some (0, .play 9 50 true false 0) ∧ videoShow.channels[0]? = some 0 ∧
      channelEntry stage 0 = some { gallery := 0, kind := .video, node := 1, nodeChannel := 0 } ∧ nodePresent stage 1 = true) ∧
    nodePresent (setNode 1 { NodeRecord.initial with presence := .absent } stage) 1 = false := by decide +kernel

theorem witness_PrimingGoAndLength :
    (slotOf (slotted id) 15 = some (onAir 0 videoShow .running 3) ∧ showOf (slotted id) 0 = some videoShow) ∧
    primeList (slotted id) videoShow = [(0, 9)] ∧ primeList stage lightShow = [] ∧ (onAir 0 videoShow .running 3).clock < videoShow.length ∧
    (slotOf (slotted (fun r => { r with clock := 10, pointer := 1 })) 15).map
      (fun r => decide (r.state = .running ∧ videoShow.length ≤ r.clock ∧ videoShow.cues.length ≤ r.pointer ∧ r.repeats = some 0)) = some true ∧
    (slotOf (slotted (fun r => { r with clock := 10, pointer := 1, repeats := none })) 15).map (fun r => decide (r.repeats ≠ some 0)) = some true := by
  decide +kernel

/-- Slot 2 is forming the group of show 22, which show 23 follows. -/
def forming : Blocks :=
  setGroups [{ leader := 2, followers := [], forming := true, leaderIn := true }] (setSlot 2 (some { onAir 22 lightShow .priming 1 with group := some 2 }) launching)

theorem witness_ALaunchGroupForms :
    (primeList launching ledShow = [] ∧ (slotOf grouped 1).map (fun r => (r.showId, r.group)) = some (21, some 0)) ∧
    ((List.range 64).filter (fun f => (showOf launching f).any (fun sf => sf.leader = some 20)) = [21] ∧
      claimStands (grant pendingScan 0 (asking 0 20 videoShow launching)) 0 = true ∧ claimStands launching 0 = false) ∧
    (showOf launching 21 = some ledShow ∧ ledShow.cls ≠ .override ∧ ledShow.cues ≠ [] ∧ launching.house.alarmState = .normal ∧
      (housed (fun h => { h with alarmState := .alarm }) launching).house.alarmState ≠ .normal) ∧
    (showOf (setSettings { launching.store.settings with shows := tset launching.store.settings.shows 21 (some { ledShow with cues := [] }) } launching) 21 =
      some { ledShow with cues := [] }) ∧
    slotHolding grouped 21 = some 1 ∧ (∀ k < 16, slotOf crowded k ≠ none) ∧
    -- the leader of show 22 and its follower share channel 1; a claim that stands, with and without a group
    (showOf forming 23 = some { lightShow with leader := some 22, tied := true } ∧ slotHolding forming 23 = none ∧ slotOf forming 0 = none ∧
      (forming.runner.groups.find? (fun g => g.leader = 2 && g.forming)).map (fun g => (g.leaderIn, g.members)) = some (true, [2])) ∧
    (claimStands (grant pendingScan 0 (asking 0 21 ledShow launching)) 0 = true ∧
      (grant pendingScan 0 (asking 0 21 ledShow launching)).runner.groups.find? (fun g => g.leader = 2 && g.forming) = none ∧
      claimStands (grant pendingScan 0 (asking 0 21 ledShow forming)) 0 = true ∧
      (grant pendingScan 0 (asking 0 21 ledShow forming)).runner.groups.find? (fun g => g.leader = 2 && g.forming) =
        some { leader := 2, followers := [], forming := true, leaderIn := true }) := by
  decide +kernel

theorem witness_ALaunchGroupEnds :
    launching.runner.groups.find? (fun g => g.leader = 0) = none ∧
    grouped.runner.groups.find? (fun h => h.leader = 0) = some { leader := 0, followers := [1], forming := false, leaderIn := true } ∧
    -- it stays, it goes, it dissolves, with its leader out or without a follower
    (atStep2 grouped 0 = false ∧ atStep2 grouped 1 = true) ∧
    (∀ m ∈ [0, 1], atStep2 (modSlot 0 (fun r => { r with step := 2 }) grouped) m = true) ∧
    ((leaveGroup 0 grouped).runner.groups = [{ leader := 0, followers := [1], forming := false, leaderIn := false }] ∧
      (leaveGroup 1 grouped).runner.groups = [{ leader := 0, followers := [], forming := false, leaderIn := true }]) ∧
    -- the follower goes, or, foreseen to end, does not; nothing is foreseen between actions, and a trial run records
    ((slotOf (settleGroups (leaveGroup 0 grouped)) 1).map (fun r => (r.state, r.group)) = some (.running, none) ∧
      (slotOf (settleGroups (leaveGroup 0 (setForesight (.known [1]) grouped))) 1).map (fun r => (r.state, r.group)) = some (.priming, none)) ∧
    grouped.runner.foresight = .idle ∧
    (endSlotsWith pendingScan [(0, .stopped)] (setForesight (.recording []) grouped)).runner.foresight = .recording [0] := by
  decide +kernel

/-- Nodes 1 and 32 are ABSENT, and a transaction is on the bus. -/
def lonely : Blocks :=
  onBus aPlay 1 (setNode 32 { NodeRecord.initial with presence := .absent } (setNode 1 { NodeRecord.initial with presence := .absent } stage))

/-- As `lonely`, the bus free. -/
def quiet : Blocks := { lonely with bus := { lonely.bus with job := none } }

theorem witness_TimersAndPollingCountTicks :
    (tget stage.runner.rest 63 : Option Timer) = none ∧
    (tget (after (.stop 1 0) (playing 0 videoShow .running 3)).runner.rest 0 : Option Timer) = some { ticks := 300, fresh := true } ∧
    (tget (takeSource 63 opened).trigger.sources 63).rearm = some { ticks := 60000, fresh := true } ∧
    stage.bus.pollTicks + 1 < 100 ∧ 100 ≤ 99 + 1 ∧ stage.house.escalation = none ∧ (loadEscalation stage).house.escalation = some { ticks := 1000, fresh := true } ∧
    (tickInstant (loadEscalation stage)).house.escalation = some { ticks := 1000, fresh := false } ∧
    (lonely.bus.job.isSome = true ∧ (queued 63 lonely).bus.queue.length ≤ 64 ∧ (queued 64 lonely).bus.queue.length ≤ 64) ∧
    ((List.range 33).filter (fun n => 1 ≤ n ∧ nodePresent lonely n = false ∧ nodeReferenced lonely.store.settings n = true ∧
      pollOutstanding lonely n = false)) = [1, 32] ∧
    (∀ p ∈ [quiet, stage], p.bus.job = none ∧ p.store.loading = false ∧ p.bus.queue = []) ∧
    (∀ p ∈ [quiet, stage], ((List.range 33).filter (fun n => 1 ≤ n ∧ nodePresent p n = false ∧ nodeReferenced p.store.settings n = true)).map pollTx =
      if nodePresent p 1 = true then [] else [pollTx 1, pollTx 32]) ∧
    stage.link.requests = [] ∧ State.reset.part.store.loading = true ∧ stage.store.loading = false := by decide +kernel

/-! ### Lines, sources, levels and laws -/

/-- Line 31's working record. -/
def lined (w : LineWork) : Blocks := withLine 31 w stage

theorem witness_ALineIsSampledAndQualified :
    (∀ p ∈ [lined LineWork.initial, lined { qualified := some .inactive, stable := 3, countdown := none }], p.link.requests = [] ∧ p.store.loading = false ∧
      (tget p.store.settings.lines 31).enabled = true ∧ (tget p.store.settings.lines 31).stableCount = 4) ∧
    State.reset.part.store.loading = true ∧ (tget stage.store.settings.lines 0).enabled = false ∧
    (tget (lined LineWork.initial).trigger.lines 31).qualified = none ∧
    (∀ n ∈ [2, 3], tget (lined { qualified := some .inactive, stable := n, countdown := some 2 }).trigger.lines 31 =
      { qualified := some .inactive, stable := n, countdown := some 2 }) ∧ 2 + 1 < 4 ∧ 4 ≤ 3 + 1 ∧
    (tget (lined { qualified := some .active, stable := 0, countdown := some 1 }).trigger.lines 31).countdown = some 1 := by decide +kernel

theorem witness_ASourceTakesItsEvent :
    alarmed.house.alarmState ≠ .normal ∧ (tget (takeSource 63 opened).trigger.sources 63).rearm ≠ none ∧
    (opened.house.alarmState = .normal ∧ (tget opened.trigger.sources 63).rearm = none ∧ (tget opened.store.settings.routes 63).enabled = true ∧
      opened.house.mode = .opened) ∧
    (31 < 32 ∧ (tget stage.store.settings.lines 31).wake = true ∧ stage.house.mode = .closed ∧ wakeAll.trigger = true) ∧
    (tget stage.store.settings.routes 0).enabled = false ∧ stage.house.wake.trigger = false ∧
    (noteRoute.action = .note ∧ setRoute15.target = some 15) ∧
    (startShow 0 (.trigger 63) false opened).1 = .accepted 0 .claimed ∧ (startShow 62 (.trigger 63) true opened).1 = .refused .noShow .check ∧
    (tget stage.store.settings.sets 14 : Option SetSettings) = none ∧ (tget stage.store.settings.sets 15 : Option SetSettings) ≠ none ∧
    (showOf stage 62 = none ∧ showOf stage 0 ≠ none ∧ slotHolding stage 0 = none ∧ slotHolding (playing 0 videoShow .held 3) 0 = some 0 ∧
      slotOf (playing 0 videoShow .held 3) 0 = some (onAir 0 videoShow .held 3)) := by decide +kernel

/-- Gallery 15 with thresholds 100 and 600 and a stuck count of 10, after a reading. -/
def metered (w : GalleryWork) (p : Blocks) : Blocks :=
  withGallery 15 w (setSettings { p.store.settings with
    galleries := tset p.store.settings.galleries 15 { low := 100, high := 600, stuckCount := 10 } } p)

def readOnce (r run : Nat) (reported : Bool) : GalleryWork :=
  { GalleryWork.initial with sample := some r, equalRun := run, runReported := reported, stuckFlag := reported }

theorem witness_AReadingCrossesAndSticks :
    (∀ w ∈ [GalleryWork.initial, readOnce 600 9 false, readOnce 100 9 true], (metered w stage).link.requests = [] ∧ (metered w stage).store.loading = false ∧
      tget (metered w stage).store.settings.galleries 15 = { low := 100, high := 600, stuckCount := 10 } ∧
      tget (metered w stage).level.galleries 15 = w) ∧
    State.reset.part.store.loading = true ∧ (600 < 601 ∧ 600 ≤ 600) ∧ (99 < 100 ∧ 100 ≤ 100) ∧ (100 ≤ 100 ∧ 600 ≤ 600) ∧
    (10 ≤ min 255 (9 + 1) ∧ min 255 (8 + 1) < 10) := by decide +kernel

theorem witness_TheCurveGivesTheTarget :
    LawAccepted { humpLaw with curve := [⟨1, 0⟩, ⟨2, 1⟩, ⟨4, 1⟩, ⟨6, 0⟩, ⟨1022, 100⟩] } ∧ LawAccepted humpLaw ∧ (0 < 1 ∧ 1022 < 1023) ∧
    humpLaw.curve[3]? = some ⟨6, 0⟩ ∧ humpLaw.curve[3 + 1]? = some ⟨1023, 100⟩ ∧ (6 < 7 ∧ 1022 < 1023) ∧ humpLaw.interpolate = true :=
  ⟨⟨by decide, by decide, by decide, by simp, by decide, by decide⟩, humpLaw_accepted, by decide +kernel⟩

theorem witness_ALawMovesAtAReading :
    alarmed.house.alarmState ≠ .normal ∧
    ((tget (metered (readOnce 600 10 true) stage).level.galleries 15).stuckFlag = true ∧ 10 ≤ (readOnce 600 10 true).equalRun) ∧
    (stage.house.alarmState = .normal ∧ (tget stage.level.galleries 0).stuckFlag = false) ∧ LawAccepted humpLaw ∧
    (tget stage.level.laws 0).current = none ∧ (tget (withLaw 0 { LawWork.initial with current := some 100 } stage).level.laws 0).current = some 100 ∧
    (humpLaw.curve[0]? = some ⟨0, 0⟩ ∧ humpLaw.curve[4]? = some ⟨1023, 100⟩ ∧ humpLaw.jumpHigh = true ∧ humpLaw.jumpLow = true) ∧
    channelEntry stage 0 = some { gallery := 0, kind := .video, node := 1, nodeChannel := 0 } ∧ nodePresent stage 1 = true ∧
    trimOutstanding stage 0 = false ∧ trimOutstanding (onBus { aPlay with kind := .trim 5 } 1 stage) 0 = true := by
  refine ⟨by decide +kernel, by decide +kernel, by decide +kernel, humpLaw_accepted, by decide +kernel⟩

/-! ### The alarm line, the bus and preemption -/

/-- The alarm line with a qualified state and a run of asserted samples. -/
def contact (q : Option Bool) (run : Nat) (st : AlarmState) : Blocks :=
  housed (fun h => { h with qualified := q, run := run, runLevel := true, alarmState := st }) stage

theorem witness_TheAlarmLineIsQualified :
    (∀ p ∈ [contact none 3 .normal, contact (some false) 3 .alarmHeld, contact (some true) 0 .alarm], p.link.requests = [] ∧ p.store.loading = false) ∧
    State.reset.part.store.loading = true ∧ (contact (some true) 0 .alarm).house.qualified = some true ∧
    (contact none 2 .normal).house.qualified ≠ some true ∧ 2 + 1 < 4 ∧ 4 ≤ 3 + 1 ∧
    (slotOf (playing 0 videoShow .running 3) 0 = some (onAir 0 videoShow .running 3) ∧ showOf (playing 0 videoShow .running 3) 0 = some videoShow) ∧
    stage.store.settings.overrideShow = none ∧
    (showOf stage 62 = none ∧ showOf stage 0 = some videoShow ∧ showOf stage 3 = some overrideShow ∧ overrideShow.cues ≠ []) ∧
    (∀ p ∈ [setSettings { stageSettings with overrideShow := some 3 } (playing 3 overrideShow .running 3)], p.store.settings.overrideShow = some 3 ∧
      slotHolding p 3 = some 0 ∧ slotOf p 0 = some (onAir 3 overrideShow .running 3) ∧ showOf p 3 = some overrideShow) ∧
    (3 ≤ 63 ∧ slotHolding stage 3 = none ∧ slotOf stage 0 = none ∧ (∀ ch < 128, ownersOf stage ch = []) ∧ stage.runner.groups = [] ∧
      overrideShow.channels.Nodup ∧ (slotOf (grant pendingScan 0 (setSlot 0 (some (SlotRec.taken 3 overrideShow .alarm)) stage)) 0).isSome = true) ∧
    (slotHolding (playing 0 videoShow .running 3) 3 = none ∧ slotOf (playing 0 videoShow .running 3) 1 = none ∧
      (topEntry (playing 0 videoShow .running 3) 0).map (fun e => decide (e.cls.rank < overrideShow.cls.rank)) = some true ∧
      topEntry (playing 0 videoShow .running 3) 1 = none) := by decide +kernel

theorem ordered_polls (n : Nat) : QueueOrdered (List.replicate n (pollTx 5)) := by
  simp [QueueOrdered, List.pairwise_replicate, ShowClass.below]

theorem witness_ATransactionEntersByClass :
    QueueFits (queued 63 stage) ∧ QueueFits (queued 64 stage) ∧ (aPlay.kind ≠ .poll ∧ aPlay.kind ≠ .hush) ∧
    (nodePresent lonely 1 = false ∧ nodePresent stage 1 = true) ∧ slotOf (playing 0 videoShow .running 3) 0 = some (onAir 0 videoShow .running 3) ∧
    (queued 63 stage).bus.queue.length < 64 ∧ (queued 64 stage).bus.queue = List.replicate 63 (pollTx 5) ++ [pollTx 5] ∧
    ((pollTx 5).cls.rank < aPlay.cls.rank ∧ (pollTx 1).cls.rank ≤ (pollTx 5).cls.rank) ∧ lonely.bus.job.isSome = true ∧
    (stage.bus.job = none ∧ stage.bus.queue = [] ∧ State.reset.part.store.loading = true ∧ State.reset.part.bus.job = none) ∧
    ((queued 63 stage).bus.queue = pollTx 5 :: List.replicate 62 (pollTx 5) ∧ (queued 63 stage).store.loading = false ∧ (queued 63 stage).bus.job = none) :=
  ⟨⟨ordered_polls 63, by decide +kernel⟩, ⟨ordered_polls 64, by decide +kernel⟩, by decide +kernel⟩

/-- Slot 0 primes show 0 and awaits channels. -/
def primed (missing : List Nat) : Blocks := modSlot 0 (fun r => { r with missing := missing }) (playing 0 videoShow .priming 1)

/-- Slot 0 runs with its count of lost cues at the bound; a PLAY of a cue and a POLL wait for node 1. -/
def cueWaits : Blocks :=
  let p := modSlot 0 (fun r => { r with skipped := 65535 }) (playing 0 videoShow .running 3)
  { p with bus := { p.bus with queue := [aPlay, pollTx 1] } }

theorem witness_AnAttemptEnds :
    (stage.link.requests = [] ∧ stage.bus.job = none) ∧
    ((onBus hushTx 1 stage).link.requests = [] ∧ (onBus hushTx 1 stage).bus.job.map (fun j => j.tx.kind) = some .hush) ∧
    ((onBus aPlay 1 stage).bus.job.map (fun j => decide (j.tx.kind ≠ .hush ∧ j.tx.attempts ≤ j.retries)) = some true) ∧
    ((onBus aPlay 2 stage).bus.job.map (fun j => decide (j.retries < j.tx.attempts)) = some true) ∧
    parseReply [] = none ∧ parseReply (0x5A#8 :: [1, 0] ++ crcBytes [1, 0]) = some { node := 1, toggle := false, answer := .ack } ∧
    parseReply (0x5A#8 :: [1, 2, 2] ++ crcBytes [1, 2, 2]) = some { node := 1, toggle := false, answer := .nak .badRequest } ∧
    parseReply (0x5A#8 :: [1, 0x83] ++ crcBytes [1, 0x83]) = some { node := 1, toggle := true, answer := .status } ∧
    aPlay.kind.goodAnswer = some .ack ∧ (aPlay.channel = some 0 ∧ aPlay.owner = some 0 ∧ aPlay.cueIndex = some 0 ∧ aPlay.kind.isTrim = false) ∧
    (lawOn stage 0 = none ∧ lawOn (after (.setLaw 1 goodLaw) stage) 0 ≠ none) ∧
    parseReply (0x5B#8 :: [1, 0] ++ crcBytes [1, 0]) = none ∧
    -- each answer, a wrong reason, a byte too many, a wrong check value, too few bytes, no start byte
    ((0x80#8 &&& 3 = 0) ∧ (0x85#8 &&& 3 = 1) ∧ (0x82#8 &&& 3 = 2) ∧ (0xFF#8 &&& 3 = 3) ∧
      [NakReason.noMedia, .busy, .badRequest][(2#8).toNat]? = some .badRequest ∧ 2 < (3#8).toNat) ∧
    ([0, 0] : List Byte) ≠ crcBytes [1, 0] ∧ ([0, 0] : List Byte).length = 2 ∧ ([0x5A, 1, 0, 0] : List Byte).length < 5 ∧ ([0x5B] : List Byte).head? ≠ some 0x5A ∧
    (∀ n ∈ [1, 32], 1 ≤ n ∧ n ≤ 32) ∧ (slotOf cueWaits 0).map (fun r => (r.showId, r.skipped)) = some (0, 65535) := by decide +kernel

/-- A node that falls has its transactions but for POLLs discarded, and the discarded cue is counted (R102). -/
theorem test_a_fall_counts_what_it_discards :
    ([cueWaits, modSlot 0 (fun r => { r with skipped := 7 }) cueWaits].map fun p =>
      ((slotOf (nodeFalls 1 p) 0).map (fun r => r.skipped), (nodeFalls 1 p).bus.queue.map (fun t => (t.node, t.kind)))) =
      [(some 65535, [(1, .poll)]), (some 8, [(1, .poll)])] := by decide +kernel

theorem witness_AnOutcomeIsHandedOn :
    (slotOf stage 0 = none ∧ (slotOf (primed [0, 1]) 0).map (fun r => (r.state, r.step, r.group, r.missing)) = some (.priming, 1, none, [0, 1]) ∧
      showOf (primed [0, 1]) 0 = some videoShow ∧ primeList (primed [0, 1]) videoShow = [(0, 9)] ∧ ([0, 1] : List Nat).filter (fun c => c ≠ 0) ≠ [] ∧
      ([0] : List Nat).filter (fun c => c ≠ 0) = [] ∧ (slotOf grouped 0).map (fun r => (r.state, r.step, r.group, r.missing)) = some (.priming, 1, some 0, [0]) ∧
      primeList grouped videoShow = [(0, 9)] ∧ showOf grouped 20 = some videoShow) ∧
    (List.range 128).filter (fun ch => (channelEntry stage ch).any (fun e => e.node = 1)) = [0, 1] := by decide +kernel

/-- Slot 1 waits for show 2's channel, and the wait order is as given. -/
def waitingFor (ks : List Nat) (p : Blocks) : Blocks :=
  { asking 1 2 markShow p with map := { p.map with waitOrder := ks } }

theorem witness_PreemptionAndRegain :
    (∀ st ∈ [SlotState.running, .held, .priming, .suspended], slotOf (playing 0 videoShow st 3) 0 = some (onAir 0 videoShow st 3) ∧
      showOf (playing 0 videoShow st 3) 0 = some videoShow) ∧ videoShow.preempt ≠ .yield ∧
    (slotOf (playing 5 yielding .running 3) 0 = some (onAir 5 yielding .running 3) ∧ showOf (playing 5 yielding .running 3) 5 = some yielding ∧
      yielding.preempt = .yield) ∧
    topEverywhere (playing 0 videoShow .suspended 3) 0 = true ∧ topEverywhere stage 0 = false ∧
    ((onAir 0 videoShow .suspended 3).step = 3 ∧ videoShow.preempt = .resume) ∧ (onAir 0 videoShow .suspended 1).step ≠ 3 ∧
    ((entryOn (playing 0 videoShow .suspended 3) 0 0).map (fun e => e.last) = some none) ∧
    ((entryOn (setOwners 0 [{ cls := .feature, slot := 0, showId := 0, last := some (.scene 7 20), uid := 0 }] stage) 0 0).map (fun e => e.last) =
      some (some (.scene 7 20))) ∧
    (∀ ch < 128, ∀ e ∈ ownersOf (playing 0 videoShow .running 3) ch, e.slot ∉ [1]) ∧ (0 < 128 ∧ (ownersOf (playing 0 videoShow .running 3) 0).map (fun e => e.slot) = [0]) ∧
    (topEntry (playing 0 videoShow .running 3) 0).map (fun e => (e.slot, e.cls)) = some (0, .feature) ∧
    (ownersOf (after (.start 2 2 0) underLight) 1).map (fun e => e.slot) = [1, 0] ∧
    ((waitingFor [0, 1] (playing 2 markShow .running 3)).map.waitOrder = [] ++ 0 :: [1] ∧
      (waitingFor [3, 1] (asking 3 4 refusing (playing 0 videoShow .running 3))).map.waitOrder = [3] ++ 1 :: [] ∧
      claimable (waitingFor [3, 1] (asking 3 4 refusing (playing 0 videoShow .running 3))) 3 = false ∧
      claimable (waitingFor [3, 1] (asking 3 4 refusing (playing 0 videoShow .running 3))) 1 = true ∧
      slotOf (waitingFor [3, 1] (asking 3 4 refusing (playing 0 videoShow .running 3))) 1 = some (SlotRec.taken 2 markShow .link)) := by
  decide +kernel

/-! ### What every step keeps -/

theorem witness_EveryStepKeeps :
    (∃ t, step (holding stage) = .next t) ∧ QueueFits stage ∧ FailuresFit stage ∧ NoticesFit stage ∧ LinkFits stage ∧ StoreDistinct stage.store ∧
    StacksIncrease stage ∧ NoteHolds (noted .b).store ∧ PendingIsArmed stage ∧ AlarmClearsPending stage ∧ stage.runner.foresight = .idle ∧
    (∀ p ∈ [stage, noted .b, savingStage, State.reset.part], LoadsAlone p.store) := by
  refine ⟨⟨_, rfl⟩, ⟨List.Pairwise.nil, by decide +kernel⟩, ?_, by unfold NoticesFit; decide +kernel, by unfold LinkFits; decide +kernel, ⟨?_, ?_, ?_, ?_⟩, ?_, ?_, ?_, ?_, rfl, ?_⟩
  · unfold FailuresFit; decide +kernel
  · intro sh h
    exact of_decide_eq_true ((by decide +kernel : ∀ o ∈ stage.store.settings.shows.toList, o.all (fun sh => decide sh.channels.Nodup) = true) _ h)
  · intro im h; cases h
  · intro im h; cases h
  · intro j h; cases h
  · intro es h
    have : es = [] := (by decide +kernel : ∀ es ∈ stage.map.owners.toList, es = []) es h
    rw [this]; exact List.Pairwise.nil
  · intro ar h
    cases h
    exact ⟨by decide +kernel, fun j hj => by cases hj⟩
  · unfold PendingIsArmed; decide +kernel
  · unfold AlarmClearsPending; decide +kernel
  · unfold LoadsAlone; decide +kernel

end Sys2Proof.Tests
end

/-! SUPPORT. READ-SHOW: the outcome of each form of the request, case by case in the order of its checks (R11, R12), and from these what its commands answer. -/

namespace Sys2Proof.Machine

/-! ### The header form (R11) -/

theorem askReadHeader_of_lt {id : Nat} (p : Blocks) (h : 63 < id) : askReadHeader id p = (.refused .badField, p) := if_pos h

theorem askReadHeader_of_none {id : Nat} {p : Blocks} (h : id ≤ 63) (hs : showOf p id = none) :
    askReadHeader id p = (.refused .noShow, p) := by
  simp only [askReadHeader, if_neg (Nat.not_lt.mpr h), hs, refuseAs]

theorem askReadHeader_of_some {id : Nat} {p : Blocks} {sh : ShowRecord} (h : id ≤ 63) (hs : showOf p id = some sh) :
    askReadHeader id p = (.ok (.header id sh.toShowHeader sh.cues.length), p) := by
  simp only [askReadHeader, if_neg (Nat.not_lt.mpr h), hs]

/-! ### The page form (R12) -/

theorem askReadPage_of_lt {id : Nat} (start : Nat) (p : Blocks) (h : 63 < id) : askReadPage id start p = (.refused .badField, p) :=
  if_pos h

theorem askReadPage_of_none {id : Nat} (start : Nat) {p : Blocks} (h : id ≤ 63) (hs : showOf p id = none) :
    askReadPage id start p = (.refused .noShow, p) := by
  simp only [askReadPage, if_neg (Nat.not_lt.mpr h), hs, refuseAs]

theorem askReadPage_of_length_lt {id start : Nat} {p : Blocks} {sh : ShowRecord} (h : id ≤ 63) (hs : showOf p id = some sh)
    (hn : sh.cues.length < start) : askReadPage id start p = (.refused .badField, p) := by
  simp only [askReadPage, if_neg (Nat.not_lt.mpr h), hs, if_pos hn, refuseAs]

theorem askReadPage_of_le_length {id start : Nat} {p : Blocks} {sh : ShowRecord} (h : id ≤ 63) (hs : showOf p id = some sh)
    (hn : start ≤ sh.cues.length) :
    askReadPage id start p = (.ok (.page id start sh.cues.length ((sh.cues.drop start).take 12)), p) := by
  simp only [askReadPage, if_neg (Nat.not_lt.mpr h), hs, if_neg (Nat.not_lt.mpr hn)]

/-! ### What the commands answer -/

section
variable {s : State} (tag : Byte) {id : Nat}

theorem readShowHeader_refused {why : Reason} (h : Ready s.part) (ha : askReadHeader id s.part = (.refused why, s.part)) :
    exec (.readShowHeader tag id) s = repliesRefused s tag 4 why :=
  repliesRefused_of h rfl (congrArg (answerWith tag 4) ha)

theorem readShowHeader_ok {body : OkBody} (h : Ready s.part) (ha : askReadHeader id s.part = (.ok body, s.part)) :
    exec (.readShowHeader tag id) s = repliesOk s tag 4 body s.part :=
  repliesOk_of h rfl (congrArg (answerWith tag 4) ha)

theorem readShowPage_refused {index : Nat} {why : Reason} (h : Ready s.part) (ha : askReadPage id index s.part = (.refused why, s.part)) :
    exec (.readShowPage tag id index) s = repliesRefused s tag 4 why :=
  repliesRefused_of h rfl (congrArg (answerWith tag 4) ha)

theorem readShowPage_ok {index : Nat} {body : OkBody} (h : Ready s.part) (ha : askReadPage id index s.part = (.ok body, s.part)) :
    exec (.readShowPage tag id index) s = repliesOk s tag 4 body s.part :=
  repliesOk_of h rfl (congrArg (answerWith tag 4) ha)

end

/-- Settles O13, by the checks of R11 and R12 in their order: the range of the id, the show's place, and for a page the index against the cue count. -/
theorem readShowReturnsWhatIsStored : Obligations.ReadShowReturnsWhatIsStored := by
  intro s tag id index ready
  refine ⟨fun beyond => ⟨?_, ?_⟩, fun inRange undefined => ⟨?_, ?_⟩, fun sh inRange stored => ⟨?_, fun past => ?_, fun within => ?_⟩⟩
  · exact readShowHeader_refused tag ready (askReadHeader_of_lt s.part beyond)
  · exact readShowPage_refused tag ready (askReadPage_of_lt index s.part beyond)
  · exact readShowHeader_refused tag ready (askReadHeader_of_none inRange undefined)
  · exact readShowPage_refused tag ready (askReadPage_of_none index inRange undefined)
  · exact readShowHeader_ok tag ready (askReadHeader_of_some inRange stored)
  · exact readShowPage_refused tag ready (askReadPage_of_length_lt inRange stored past)
  · exact readShowPage_ok tag ready (askReadPage_of_le_length inRange stored within)

end Sys2Proof.Machine

/-! SUPPORT. SET-BUS (R107): what the request answers, case by case, and where the values that it writes act: a transaction carries them from the moment it is put on the bus (R94), and a further attempt keeps those it carries (R95). -/

namespace Sys2Proof.Machine

/-! ### The range check -/

theorem within_of_mem {low high n : Nat} (hl : low ≤ n) (hh : n ≤ high) : within low high n = some n := if_pos ⟨hl, hh⟩

theorem within_of_lt {low n : Nat} (high : Nat) (h : n < low) : within low high n = none := if_neg fun c => Nat.not_le.mpr h c.1

theorem within_of_gt {high n : Nat} (low : Nat) (h : high < n) : within low high n = none := if_neg fun c => Nat.not_le.mpr h c.2

/-! ### The request (R107) -/

section
variable {timeout retries : Nat} (p : Blocks)

theorem askSetBus_of_within (hl : 1 ≤ timeout) (hh : timeout ≤ 20) (hr : retries ≤ 2) :
    askSetBus timeout retries p =
      (.ok (.bus timeout retries), setSettings { p.store.settings with replyTimeout := timeout, retryCount := retries } p) := by
  simp only [askSetBus, within_of_mem hl hh, within_of_mem (Nat.zero_le retries) hr]

theorem askSetBus_of_timeout_none (h : within 1 20 timeout = none) : askSetBus timeout retries p = (.refused .badField, p) := by
  simp only [askSetBus, h, refuseAs]

theorem askSetBus_of_retries_none (h : within 0 2 retries = none) : askSetBus timeout retries p = (.refused .badField, p) := by
  simp only [askSetBus, h, refuseAs]
  cases within 1 20 timeout with
  | none => rfl
  | some _ => rfl

theorem askSetBus_of_beyond (h : timeout < 1 ∨ 20 < timeout ∨ 2 < retries) : askSetBus timeout retries p = (.refused .badField, p) := by
  rcases h with short | long | many
  · exact askSetBus_of_timeout_none p (within_of_lt 20 short)
  · exact askSetBus_of_timeout_none p (within_of_gt 1 long)
  · exact askSetBus_of_retries_none p (within_of_gt 0 many)

end

/-! ### The transaction on the bus (R94, R95) -/

/-- A free bus takes the head of the queue, with the bus settings of that moment (R94, R107). -/
theorem takeHead_job {p : Blocks} {t : Transaction} {rest : List Transaction} (loaded : p.store.loading = false)
    (free : p.bus.job = none) (head : p.bus.queue = t :: rest) :
    (takeHead p).bus.job = some
      { tx := { t with toggle := if t.kind = .hush then none else some (nodeRecord p t.node).toggle, attempts := 1 },
        timeout := p.store.settings.replyTimeout, retries := p.store.settings.retryCount } := by
  simp only [takeHead, free, loaded, head, Bool.false_eq_true, if_false]

/-- A failed attempt with retries left is followed by one more of the same transaction under the values that it carries (R95). -/
theorem attemptFailed_of_le {j : BusJob} (p : Blocks) (left : j.tx.attempts ≤ j.retries) :
    attemptFailed j p = { p with bus := { p.bus with job := some { j with tx := { j.tx with attempts := j.tx.attempts + 1 } } } } :=
  if_pos left

/-- The reply timeout ends the attempt of the transaction on the bus, unless it is a HUSH (R95, R100). -/
theorem replyTimeout_of_job {p : Blocks} {j : BusJob} (onBus : p.bus.job = some j) (awaits : j.tx.kind ≠ .hush) :
    replyTimeout p = attemptFailed j p := by
  simp only [replyTimeout, onBus, if_neg awaits]

theorem exec_replyTimeout (s : State) : exec .replyTimeout s = becomes s (finish (replyTimeout s.part)) := rfl

/-- Settles O24. The request is refused or writes by its two ranges; the head that a free bus takes starts with the settings as they stand; and a further attempt at the reply timeout reads the job alone, never the settings. -/
theorem setBusActsFromTheNextTransaction : Obligations.SetBusActsFromTheNextTransaction := by
  refine ⟨fun s tag timeout retries ready => ⟨fun beyond => ?_, fun atLeast atMost few => ?_⟩,
    fun p t rest loaded free head => ?_, fun s j onBus awaits left => ?_, rfl, rfl⟩
  · exact repliesRefused_of ready rfl (congrArg (answerWith tag 13) (askSetBus_of_beyond s.part beyond))
  · exact repliesOk_of ready rfl (congrArg (answerWith tag 13) (askSetBus_of_within s.part atLeast atMost few))
  · exact ⟨_, takeHead_job loaded free head, rfl, rfl⟩
  · rw [exec_replyTimeout, replyTimeout_of_job onBus awaits, attemptFailed_of_le s.part left]

end Sys2Proof.Machine

/-! SUPPORT. CLEAR-PENDING (R123): clearing the chosen flags as an operation on the table of trigger sources alone, what each source then holds, and from these what the command answers. -/

namespace Sys2Proof.Machine

/-! ### The table of sources -/

/-- The flag of source `i` cleared where the source is chosen. -/
def clearIfChosen (chosen : BitVec 64) (src : Table SourceWork 64) (i : Nat) : Table SourceWork 64 :=
  if chosen.getLsbD i then tset src i { tget src i with pending := false } else src

section
variable (chosen : BitVec 64) (src : Table SourceWork 64)

theorem tget_clearIfChosen_self {i : Nat} (h : i < 64) :
    tget (clearIfChosen chosen src i) i = { tget src i with pending := (tget src i).pending && !chosen.getLsbD i } := by
  unfold clearIfChosen
  cases hc : chosen.getLsbD i with
  | false => simp
  | true => simp [tget_tset_self _ _ _ h]

theorem tget_clearIfChosen_ne {i j : Nat} (h : i ≠ j) : tget (clearIfChosen chosen src i) j = tget src j := by
  unfold clearIfChosen
  split
  · exact tget_tset_ne _ _ _ _ h
  · rfl

/-- The sources outside the list keep their records. -/
theorem tget_foldl_clearIfChosen_of_notMem {i : Nat} {is : List Nat} (h : i ∉ is) :
    tget (is.foldl (clearIfChosen chosen) src) i = tget src i := by
  induction is generalizing src with
  | nil => rfl
  | cons j js ih =>
    obtain ⟨apart, notLater⟩ := List.ne_and_not_mem_of_not_mem_cons h
    rw [List.foldl_cons, ih _ notLater, tget_clearIfChosen_ne chosen src (Ne.symm apart)]

/-- A source met once in the list loses its flag where it is chosen, and keeps its timer and direction. -/
theorem tget_foldl_clearIfChosen_of_mem {i : Nat} {is : List Nat} (once : is.Nodup) (h : i ∈ is) (hi : i < 64) :
    tget (is.foldl (clearIfChosen chosen) src) i =
      { tget src i with pending := (tget src i).pending && !chosen.getLsbD i } := by
  induction is generalizing src with
  | nil => cases h
  | cons j js ih =>
    obtain ⟨notLater, onceLater⟩ := List.nodup_cons.mp once
    rw [List.foldl_cons]
    rcases List.mem_cons.mp h with rfl | later
    · rw [tget_foldl_clearIfChosen_of_notMem chosen _ notLater, tget_clearIfChosen_self chosen src hi]
    · have apart : j ≠ i := fun e => notLater (e ▸ later)
      rw [ih _ onceLater later, tget_clearIfChosen_ne chosen src apart]

end

/-! ### The request (R123) -/

/-- The request changes the table of sources alone: no action is taken. -/
theorem askClearPending_eq (chosen : BitVec 64) (p : Blocks) :
    askClearPending chosen p =
      (.ok (.pendingCleared (sourceNumbers.filter (chosenPending chosen p)).length),
        { p with trigger := { p.trigger with sources := sourceNumbers.foldl (clearIfChosen chosen) p.trigger.sources } }) := by
  refine congrArg (Prod.mk _) (List.foldl_hom (fun src => { p with trigger := { p.trigger with sources := src } }) fun src i => ?_)
  unfold clearIfChosen
  split
  · rfl
  · rfl

/-- Settles O27. The request is taken at its arrival and comes to one clearing of each of the 64 sources in turn, none of which is met twice. -/
theorem clearPendingClearsTheChosen : Obligations.ClearPendingClearsTheChosen := by
  intro s tag chosen ready
  refine ⟨sourceNumbers.foldl (clearIfChosen chosen) s.part.trigger.sources, ?_, fun i hi => ?_⟩
  · exact repliesOk_of ready rfl (congrArg (answerWith tag 17) (askClearPending_eq chosen s.part))
  · exact tget_foldl_clearIfChosen_of_mem chosen _ List.nodup_range (List.mem_range.mpr hi) hi

end Sys2Proof.Machine

/-! SUPPORT. SET-ALARM (R170): the four checks of the request in their order, each by what it reads, and from these what the command answers. -/

namespace Sys2Proof.Machine

/-! ### What the checks read -/

theorem optWithin_of_le {high v : Nat} (h : v ≤ high) : optWithin high (.present v) = some (some v) := if_pos h

theorem optWithin_of_gt {high v : Nat} (h : high < v) : optWithin high (.present v) = none := if_neg (Nat.not_le.mpr h)

theorem underAlarm_iff (p : Blocks) : underAlarm p = true ↔ p.house.alarmState ≠ .normal := decide_eq_true_iff

theorem underAlarm_of_normal {p : Blocks} (h : p.house.alarmState = .normal) : underAlarm p = false :=
  Bool.eq_false_iff.mpr fun alarm => (underAlarm_iff p).mp alarm h

section
variable {p : Blocks} {id : Nat}

theorem overrideCheck_of_undefined (h : showOf p id = none) : overrideCheck p (some id) = some .noShow := by
  simp only [overrideCheck, h]

theorem overrideCheck_of_ne {sh : ShowRecord} (h : showOf p id = some sh) (hc : sh.cls ≠ .override) :
    overrideCheck p (some id) = some .badClass := by
  simp only [overrideCheck, h, if_neg hc]

theorem overrideCheck_of_override {sh : ShowRecord} (h : showOf p id = some sh) (hc : sh.cls = .override) :
    overrideCheck p (some id) = none := by
  simp only [overrideCheck, h, if_pos hc]

end

/-! ### The request (R170) -/

section
variable {showId : OptField} {t : Nat} {p : Blocks}

theorem askSetAlarm_of_show_none (t : Nat) (p : Blocks) (h : optWithin 63 showId = none) :
    askSetAlarm showId t p = (.refused .badField, p) := by
  simp only [askSetAlarm, h, refuseAs]

theorem askSetAlarm_of_time_none (showId : OptField) (p : Blocks) (h : within 1 60 t = none) :
    askSetAlarm showId t p = (.refused .badField, p) := by
  simp only [askSetAlarm, h, refuseAs]
  cases optWithin 63 showId with
  | none => rfl
  | some _ => rfl

theorem askSetAlarm_of_time_beyond (showId : OptField) (p : Blocks) (h : t < 1 ∨ 60 < t) :
    askSetAlarm showId t p = (.refused .badField, p) := by
  rcases h with short | long
  · exact askSetAlarm_of_time_none showId p (within_of_lt 60 short)
  · exact askSetAlarm_of_time_none showId p (within_of_gt 1 long)

variable {id : Option Nat} (hs : optWithin 63 showId = some id) (hl : 1 ≤ t) (hh : t ≤ 60)
include hs hl hh

theorem askSetAlarm_of_alarm (h : p.house.alarmState ≠ .normal) : askSetAlarm showId t p = (.refused .alarm, p) := by
  simp only [askSetAlarm, hs, within_of_mem hl hh, if_pos ((underAlarm_iff p).mpr h), refuseAs]

theorem askSetAlarm_of_check_some {why : Reason} (h : p.house.alarmState = .normal) (hc : overrideCheck p id = some why) :
    askSetAlarm showId t p = (.refused why, p) := by
  simp only [askSetAlarm, hs, within_of_mem hl hh, underAlarm_of_normal h, Bool.false_eq_true, if_false, hc, refuseAs]

theorem askSetAlarm_of_check_none (h : p.house.alarmState = .normal) (hc : overrideCheck p id = none) :
    askSetAlarm showId t p =
      (.ok (.alarmSettings id t), setSettings { p.store.settings with overrideShow := id, ackTime := t } p) := by
  simp only [askSetAlarm, hs, within_of_mem hl hh, underAlarm_of_normal h, Bool.false_eq_true, if_false, hc]

end

/-! ### What the command answers -/

section
variable {s : State} (tag : Byte) {showId : OptField} {t : Nat}

theorem setAlarm_refused {why : Reason} (h : Ready s.part) (ha : askSetAlarm showId t s.part = (.refused why, s.part)) :
    exec (.setAlarm tag showId t) s = repliesRefused s tag 35 why :=
  repliesRefused_of h rfl (congrArg (answerWith tag 35) ha)

theorem setAlarm_ok {body : OkBody} {p : Blocks} (h : Ready s.part) (ha : askSetAlarm showId t s.part = (.ok body, p)) :
    exec (.setAlarm tag showId t) s = repliesOk s tag 35 body p :=
  repliesOk_of h rfl (congrArg (answerWith tag 35) ha)

end

/-- Settles O39, by the checks of R170 in their order: the two ranges, the alarm state, the show's place, and its class; a stored show has an id in range. -/
theorem setAlarmDesignatesTheOverride : Obligations.SetAlarmDesignatesTheOverride := by
  refine ⟨fun s tag id t ready => ⟨?_, fun beyond => ?_, fun atLeast atMost => ⟨fun alarm => ⟨?_, fun inRange => ?_⟩,
    fun normal => ⟨?_, fun inRange undefined => ?_, fun sh stored other => ?_, fun sh stored override => ?_⟩⟩⟩, rfl, rfl⟩
  · rintro (beyond | beyond)
    · exact setAlarm_refused tag ready (askSetAlarm_of_show_none t s.part (optWithin_of_gt beyond))
    · exact setAlarm_refused tag ready (askSetAlarm_of_time_beyond _ s.part beyond)
  · exact setAlarm_refused tag ready (askSetAlarm_of_time_beyond _ s.part beyond)
  · exact setAlarm_refused tag ready (askSetAlarm_of_alarm rfl atLeast atMost alarm)
  · exact setAlarm_refused tag ready (askSetAlarm_of_alarm (optWithin_of_le inRange) atLeast atMost alarm)
  · exact setAlarm_ok tag ready (askSetAlarm_of_check_none rfl atLeast atMost normal rfl)
  · exact setAlarm_refused tag ready
      (askSetAlarm_of_check_some (optWithin_of_le inRange) atLeast atMost normal (overrideCheck_of_undefined undefined))
  · have inRange : id ≤ 63 := Nat.le_of_lt_succ (showOf_lt stored)
    exact setAlarm_refused tag ready
      (askSetAlarm_of_check_some (optWithin_of_le inRange) atLeast atMost normal (overrideCheck_of_ne stored other))
  · have inRange : id ≤ 63 := Nat.le_of_lt_succ (showOf_lt stored)
    exact setAlarm_ok tag ready
      (askSetAlarm_of_check_none (optWithin_of_le inRange) atLeast atMost normal (overrideCheck_of_override stored override))

end Sys2Proof.Machine

/-! SUPPORT. What a step keeps of the link's counts and of the store's note: an event leaves both alone, and the few operations that do not (a request taken, a frame that arrives or is rejected, the end of a save or a load, power-up) are stated one by one. -/

namespace Sys2Proof.Machine

/-! ### A request that has been taken -/

/-- What a request that is answered at its taking leaves of the store and of the link's counts: one reply more in all. -/
structure AnswerFrame (p q : Blocks) : Prop where
  areaA : q.store.areaA = p.store.areaA
  areaB : q.store.areaB = p.store.areaB
  note : q.store.note = p.store.note
  save : q.store.save = p.store.save
  loading : q.store.loading = p.store.loading
  total : q.link.replies.length + q.link.requests.length = p.link.replies.length + p.link.requests.length + 1
  fewer : q.link.requests.length ≤ p.link.requests.length

theorem AnswerFrame.putReply (r : Reply) (p : Blocks) : AnswerFrame p (putReply r p) :=
  ⟨rfl, rfl, rfl, rfl, rfl, by simp only [Machine.putReply, List.length_append, List.length_singleton]; omega, Nat.le_refl _⟩

theorem AnswerFrame.of_ask {p q r : Blocks} (a : AskFrame p q) (b : AnswerFrame q r) : AnswerFrame p r :=
  ⟨b.areaA.trans a.areaA, b.areaB.trans a.areaB, b.note.trans a.note, b.save.trans a.save, b.loading.trans a.loading,
    b.total.trans (congrArg (· + 1) a.total), Nat.le_trans b.fewer a.fewer⟩

theorem AnswerFrame.then_ask {p q r : Blocks} (a : AnswerFrame p q) (b : AskFrame q r) : AnswerFrame p r :=
  ⟨b.areaA.trans a.areaA, b.areaB.trans a.areaB, b.note.trans a.note, b.save.trans a.save, b.loading.trans a.loading,
    b.total.trans a.total, Nat.le_trans b.fewer a.fewer⟩

theorem AnswerFrame.of_answer {p : Blocks} (tag kind : Byte) (out : Verdict × Blocks) (h : AskFrame p out.2) :
    AnswerFrame p (answerWith tag kind out) :=
  AnswerFrame.of_ask h (AnswerFrame.putReply _ _)

theorem EventFrame.resetNotices (p : Blocks) : EventFrame p (resetNotices p) := by
  unfold Machine.resetNotices
  have emptied : EventFrame p { p with link := { p.link with notices := [], lost := false } } :=
    ⟨rfl, rfl, rfl, rfl, rfl, rfl, rfl, Nat.le_refl _, fun h => ⟨h, rfl⟩⟩
  exact emptied.trans (eventFrame.notice _ _)

theorem AnswerFrame.resetPart (tag : Byte) (p : Blocks) : AnswerFrame p (resetPart tag p) := by
  have made := AnswerFrame.putReply (.ok tag resetKind .resetTaken) (overtake p)
  have reset := (EventFrame.resetBlocks (Machine.putReply (.ok tag resetKind .resetTaken) (overtake p))).trans (EventFrame.resetNotices _)
  exact AnswerFrame.of_ask (EventFrame.overtake p).toAsk (made.then_ask reset.toAsk)

theorem AnswerFrame.getStatus (tag kind : Byte) (p : Blocks) : AnswerFrame p (answerWith tag kind (askGetStatus p)) :=
  have made := AnswerFrame.putReply (.ok tag kind (.status (statusOf p))) { p with link := { p.link with overrun := false } }
  ⟨rfl, rfl, rfl, rfl, rfl, made.total, made.fewer⟩

/-- Every request but SAVE-STORE is answered at its taking. -/
theorem takeRequest_answers (tag kind : Byte) (r : Request) (p : Blocks) (notSave : r ≠ .saveStore) :
    AnswerFrame p (takeRequest tag kind r p) := by
  have c := askFrame
  cases r
  case saveStore => exact absurd rfl notSave
  case reset => exact AnswerFrame.resetPart tag p
  case getStatus => exact AnswerFrame.getStatus tag kind p
  all_goals refine AnswerFrame.of_answer tag kind _ ?_
  case defineShow r => exact c.defineShow r p
  case appendCues r => exact c.appendCues r p
  case eraseShow id => exact c.eraseShow id p
  case readShowHeader id => exact c.readHeader id p
  case readShowPage id n => exact c.readPage id n p
  case setChannel r => exact c.setChannel r p
  case getChannel ch => exact c.getChannel ch p
  case stopGallery g => exact c.stopGallery g p
  case startShow id o => exact c.start id o p
  case stopShow id => exact c.stop id p
  case release id => exact c.release id p
  case getSlot k => exact c.getSlot k p
  case setBus t n => exact c.setBus t n p
  case getNodes => exact c.getNodes p
  case setLine r => exact c.setLine r p
  case setRoute r => exact c.setRoute r p
  case clearPending b => exact c.clearPending b p
  case defineSet r => exact c.defineSet r p
  case startSet n => exact c.startSet n p
  case getTriggers t n => exact c.getTriggers t n p
  case clearLevelFlags b => exact c.clearLevelFlags b p
  case getLevels n => exact c.getLevels n p
  case setGallery r => exact c.setGallery r p
  case setLaw r => exact c.setLaw r p
  case removeLaw ch => exact c.removeLaw ch p
  case getLaw ch => exact c.getLaw ch p
  case setTimebase s r => exact c.setTimebase s r p
  case setTime s d => exact c.setTime s d p
  case getTime => exact c.getTime p
  case setEntry r => exact c.setEntry r p
  case getEntry e => exact c.getEntry e p
  case closeHouse w => exact c.closeHouse w p
  case openHouse => exact c.openHouse p
  case alarmAck => exact c.alarmAck p
  case resume => exact c.resume p
  case setAlarm s t => exact c.setAlarm s t p
  case stopAll => exact c.stopAll p

/-! ### The end of a load (R18) -/

/-- The settings that a load finds; the last column of R14 where no area passes. -/
def loadedSettings (c : CueStore) : Settings := ((loadedImage c).map Image.settings).getD Settings.initial

/-- The part with the settings and the note of a load that has ended, before its notice and its polls. -/
def loadedPart (p : Blocks) : Blocks :=
  { p with
    store := { p.store with settings := loadedSettings p.store, note := loadArea p.store, loading := false }
    time := p.time.afresh (loadedSettings p.store).source }

theorem endLoad_loading {p : Blocks} (h : p.store.loading = true) :
    endLoad p = pollReferenced (putNotice (loadNotice (loadedImage p.store)) (loadedPart p)) := by
  unfold endLoad loadedPart loadedSettings
  rw [if_pos h]
  cases loadedImage p.store with
  | none => rfl
  | some im => rfl

theorem endLoad_idle {p : Blocks} (h : p.store.loading = false) : endLoad p = p := by
  unfold endLoad
  rw [h]
  rfl

/-- The notice and the polls of a load's end are an event on the loaded part. -/
theorem endLoad_frame {p : Blocks} (h : p.store.loading = true) : EventFrame (loadedPart p) (endLoad p) := by
  rw [endLoad_loading h]
  exact (eventFrame.notice _ _).trans (eventFrame.pollReferenced _)

/-! ### What the rest of a command does -/

/-- What an event leaves of the store and of the link's counts: requests turn into replies, and replies are sent. -/
structure CountFrame (p q : Blocks) : Prop where
  store : q.store = p.store
  fewer : q.link.requests.length ≤ p.link.requests.length
  total : q.link.replies.length + q.link.requests.length ≤ p.link.replies.length + p.link.requests.length

theorem EventFrame.toCount {p q : Blocks} (h : EventFrame p q) : CountFrame p q := ⟨h.store, h.fewer, Nat.le_of_eq h.total⟩

theorem CountFrame.of_eq {p q : Blocks} (hs : q.store = p.store) (hq : q.link.requests = p.link.requests) (hr : q.link.replies = p.link.replies) :
    CountFrame p q :=
  ⟨hs, by rw [hq], by rw [hq, hr]⟩

theorem CountFrame.transmit (p : Blocks) : CountFrame p (transmit p) := by
  refine ⟨transmit_store p, by rw [transmit_requests], ?_⟩
  rw [transmit_requests]
  unfold Machine.transmit
  split
  · exact Nat.le_refl _
  · rename_i made
    simp only [modLink_link, made, List.length_cons]
    omega
  · exact Nat.le_refl _
  · exact Nat.le_refl _

theorem CountFrame.overrunNow (p : Blocks) : CountFrame p (overrunNow p) := CountFrame.of_eq rfl rfl rfl

theorem CountFrame.frameSent (p : Blocks) : CountFrame p (frameSent p) := CountFrame.of_eq rfl rfl rfl

theorem CountFrame.setAssembler (a : Assembler) (p : Blocks) : CountFrame p (setAssembler a p) := CountFrame.of_eq rfl rfl rfl

theorem CountFrame.modTime (f : TimeUnit → TimeUnit) (p : Blocks) : CountFrame p (modTime f p) := CountFrame.of_eq rfl rfl rfl

theorem CountFrame.tickInstant (p : Blocks) : CountFrame p (tickInstant p) := by
  unfold Machine.tickInstant
  exact CountFrame.of_eq rfl rfl rfl

/-- A condition on the store and the link's counts that each operation on them keeps. -/
structure CountKept (P : Blocks → Prop) : Prop where
  quiet : ∀ {p q}, CountFrame p q → P p → P q
  /-- A waiting request is taken. -/
  taken : ∀ {p x rest}, p.link.requests = x :: rest → mayTake p = true → P p →
    P (takeQueued x (modLink (fun l => { l with requests := rest }) p))
  joined : ∀ x {p}, p.link.replies.length < 8 → P p → P (joinQueue x p)
  replied : ∀ r {p}, p.link.replies.length < 8 → P p → P (putReply r p)
  /-- An immediate request is taken at its arrival. -/
  prompt : ∀ tag kind r {p}, p.link.replies.length < 8 → requestImmediate r = true → P p → P (takeRequest tag kind r p)
  saved : ∀ passes {p}, P p → P (endSave passes p)
  loaded : ∀ {p}, P p → P (endLoad p)
  begins : ∀ {p}, P p → P (powerUp p)

namespace CountKept
variable {P : Blocks → Prop} (c : CountKept P)
include c

theorem event {p q : Blocks} (h : EventFrame p q) (hp : P p) : P q := c.quiet h.toCount hp

theorem serveUpTo (n : Nat) {p : Blocks} (hp : P p) : P (serveUpTo n p) := by
  induction n generalizing p with
  | zero => exact hp
  | succ n ih =>
    unfold Machine.serveUpTo
    split
    · exact hp
    · rename_i waits
      split
      · rename_i may
        exact ih (c.taken waits may hp)
      · exact hp

theorem transmit {p : Blocks} (hp : P p) : P (transmit p) := c.quiet (CountFrame.transmit p) hp

theorem finish {p : Blocks} (hp : P p) : P (finish p) := by
  refine c.transmit ?_
  have served : P (serve p) := c.serveUpTo _ hp
  unfold refill
  split
  · exact served
  · exact c.serveUpTo _ (c.transmit served)

theorem arrive (x : Queued) {p : Blocks} (hp : P p) : P (arrive x p) := by
  unfold Machine.arrive
  split
  · exact c.quiet (CountFrame.overrunNow p) hp
  rename_i full
  have room : p.link.replies.length < 8 := Nat.lt_of_not_le full
  split
  · exact c.joined x room hp
  unfold checkFrame
  split
  case h_1 kind => rw [takeQueued, kind]; exact c.replied _ room hp
  case h_2 kind => rw [takeQueued, kind]; exact c.replied _ room hp
  case h_3 => exact c.joined x room hp
  case h_4 =>
    split
    · rename_i immediate
      exact c.prompt _ _ _ room immediate hp
    · exact c.joined x room hp

theorem rejectFrame (cause : FrameCause) {p : Blocks} (hp : P p) : P (rejectFrame cause p) := by
  unfold Machine.rejectFrame
  split
  · exact c.quiet (CountFrame.overrunNow p) hp
  · rename_i full
    exact c.replied _ (Nat.lt_of_not_le full) hp

theorem setAssembler (a : Assembler) {p : Blocks} (hp : P p) : P (setAssembler a p) := c.quiet (CountFrame.setAssembler a p) hp

theorem completeFrame (len : Nat) (got : List Byte) {p : Blocks} (hp : P p) : P (completeFrame len got p) := by
  unfold Machine.completeFrame
  split
  · split
    · exact c.arrive _ hp
    · exact c.rejectFrame _ hp
  · exact c.rejectFrame _ hp

theorem receiveByte (b : Byte) {p : Blocks} (hp : P p) : P (receiveByte b p) := by
  unfold Machine.receiveByte
  split
  · split
    · exact c.setAssembler _ hp
    · exact hp
  · split
    · exact c.setAssembler _ hp
    · exact c.rejectFrame _ (c.setAssembler _ hp)
  · split
    · exact c.setAssembler _ hp
    · exact c.completeFrame _ _ (c.setAssembler _ hp)

theorem frameGap {p : Blocks} (hp : P p) : P (frameGap p) := by
  unfold Machine.frameGap
  split
  · exact hp
  · exact c.rejectFrame _ (c.setAssembler _ hp)
  · exact c.rejectFrame _ (c.setAssembler _ hp)

theorem takerEvents (ts : List TickTaker) {p : Blocks} (hp : P p) : P (takerEvents ts p) := by
  refine List.foldlRecOn ts takerEvent hp fun q hq t _ => ?_
  unfold takerEvent
  split
  · have down : P (putDown t q) := c.quiet (CountFrame.modTime _ q) hq
    exact c.finish (c.event (eventFrame.takeTick t _) down)
  · exact hq

theorem showTick (o : TickOrder) {p : Blocks} (hp : P p) : P (showTick o p) := by
  refine c.takerEvents _ ?_
  split
  · exact c.finish (c.quiet (CountFrame.tickInstant _) (c.takerEvents allTakers hp))
  · exact hp

theorem happens {f : Blocks → Blocks} {s t : State} (h : Machine.happens f s = .next t) (hf : P (f s.part)) : P t.part := by
  cases h
  exact c.finish hf

theorem exec (i : Instr) {s t : State} (h : Machine.exec i s = .next t) (hp : P s.part) : P t.part := by
  cases ha : arrivalOf i with
  | some a =>
    obtain ⟨tag, r⟩ := a
    exact c.happens (exec_arrival ha s ▸ h) (c.arrive _ hp)
  | none =>
    have e := eventFrame
    cases i
    case powerUp => exact c.happens h (c.begins hp)
    case resetLinePulse => exact c.happens h (c.quiet (CountFrame.modTime _ _) (c.begins hp))
    case settingsLoadEnd => exact c.happens h (c.loaded hp)
    case receiveByte b => exact c.happens h (c.receiveByte b hp)
    case frameGap => exact c.happens h (c.frameGap hp)
    case transmitFrameEnd => exact c.happens h (c.quiet (CountFrame.frameSent _) hp)
    case saveWriteEnd v => exact c.happens h (c.saved v hp)
    case showTick o => cases h; exact c.showTick o hp
    case primeTimeout k => exact c.happens h (c.event (e.primeExpires k _) hp)
    case holdTimeout k => exact c.happens h (c.event (e.holdExpires k _) hp)
    case restTimerExpiry n => exact c.happens h (c.event (e.restIdle n _) hp)
    case rearmTimerExpiry n => exact c.happens h (c.event (e.rearmExpires n _) hp)
    case pollingRound => exact c.happens h (c.event (e.pollNow _) hp)
    case escalation => exact c.happens h (c.event (e.escalationExpires _) hp)
    case dayClockAdvance => exact c.happens h (c.event (e.dayAdvance _) hp)
    case syncPulse t => exact c.happens h (c.event (e.syncPulse t _) hp)
    case syncLost => exact c.happens h (c.event (e.syncLoss _) hp)
    case lineSample l v => exact c.happens h (c.event (e.lineSample l v _) hp)
    case repeatEvent l => exact c.happens h (c.event (e.repeatEvent l _) hp)
    case levelSample g n => exact c.happens h (c.event (e.levelSample g n _) hp)
    case alarmLineSample a => exact c.happens h (c.event (e.alarmSample a _) hp)
    case nodeReply b => exact c.happens h (c.event (e.nodeReply b _) hp)
    case replyTimeout => exact c.happens h (c.event (e.replyTimeout _) hp)
    case hushSent => exact c.happens h (c.event (e.hushSent _) hp)
    all_goals cases ha

theorem step {s t : State} (h : Machine.step s = .next t) (hp : P s.part) : P t.part := by
  unfold Machine.step at h
  split at h
  · cases h; exact hp
  · exact c.exec (s := { s with pending := _ }) _ h hp

end CountKept
end Sys2Proof.Machine

/-! SUPPORT. The conditions of Safety.lean that count replies and requests, or that speak of the note and the save, are kept by every step (R15, R16, R18, R175, R176, R178). -/

namespace Sys2Proof.Machine

/-! ### The link's counts (R175, R176) -/

/-- The counts after one reply or request more, from fewer than 8 replies. -/
theorem LinkFits.of_room {p q : Blocks} (h : LinkFits p) (room : p.link.replies.length < 8) (hs : saving q = saving p)
    (hr : q.link.requests.length ≤ 4)
    (ht : q.link.replies.length + q.link.requests.length = p.link.replies.length + p.link.requests.length + 1) : LinkFits q := by
  have one : saving p ≤ 1 := by unfold saving; split <;> omega
  obtain ⟨waiting, _⟩ := h
  exact ⟨hr, by omega⟩

theorem saving_of_save {p q : Blocks} (h : q.store.save = p.store.save) : saving q = saving p := by unfold saving; rw [h]

theorem LinkFits.of_answer {p q : Blocks} (h : LinkFits p) (room : p.link.replies.length < 8) (a : AnswerFrame p q) : LinkFits q :=
  h.of_room room (saving_of_save a.save) (Nat.le_trans a.fewer h.1) a.total

/-- A request taken turns into its reply, or into the save that replies when it ends. -/
theorem takeQueued_total {p : Blocks} (x : Queued) (h : p.store.save = none) :
    (takeQueued x p).link.requests.length ≤ p.link.requests.length ∧
      (takeQueued x p).link.replies.length + (takeQueued x p).link.requests.length + saving (takeQueued x p) =
        p.link.replies.length + p.link.requests.length + 1 := by
  have none_saving : saving p = 0 := by unfold saving; rw [h]; rfl
  have answered {q : Blocks} (a : AnswerFrame p q) : q.link.requests.length ≤ p.link.requests.length ∧
      q.link.replies.length + q.link.requests.length + saving q = p.link.replies.length + p.link.requests.length + 1 := by
    refine ⟨a.fewer, ?_⟩
    rw [saving_of_save a.save, none_saving]
    exact a.total
  unfold takeQueued
  split
  · exact answered (AnswerFrame.putReply _ p)
  · exact answered (AnswerFrame.putReply _ p)
  · exact answered (AnswerFrame.putReply _ p)
  · rename_i r _
    by_cases save : r = .saveStore
    · subst save
      exact ⟨Nat.le_refl _, rfl⟩
    · exact answered (takeRequest_answers _ _ r p save)

theorem save_of_mayTake {p : Blocks} (h : mayTake p = true) : p.store.loading = false ∧ p.store.save = none := by
  unfold mayTake at h
  simp only [Bool.and_eq_true, Bool.not_eq_true', Option.isNone_iff_eq_none] at h
  exact h.1

theorem notSave_of_immediate {r : Request} (h : requestImmediate r = true) : r ≠ .saveStore := by rintro rfl; cases h

theorem linkKept : CountKept LinkFits where
  quiet f h := by
    obtain ⟨waiting, total⟩ := h
    have same := saving_of_save (congrArg CueStore.save f.store)
    have fewer := f.fewer
    have less := f.total
    exact ⟨by omega, by omega⟩
  taken {p x rest} waits may h := by
    obtain ⟨waiting, total⟩ := h
    obtain ⟨fewer, same⟩ := takeQueued_total (p := modLink (fun l => { l with requests := rest }) p) x (save_of_mayTake may).2
    simp only [waits, List.length_cons, modLink_link] at waiting total fewer same
    exact ⟨by omega, by omega⟩
  joined x p room h := by
    unfold joinQueue
    split
    · rename_i few
      refine h.of_room room (by rfl) ?_ ?_
      · simp only [modLink_link, List.length_append, List.length_singleton]; omega
      · simp only [modLink_link, List.length_append, List.length_singleton]; omega
    · exact h.of_answer room (AnswerFrame.putReply _ p)
  replied r p room h := h.of_answer room (AnswerFrame.putReply r p)
  prompt tag kind r p room immediate h := h.of_answer room (takeRequest_answers tag kind r p (notSave_of_immediate immediate))
  saved passes p h := by
    obtain ⟨waiting, total⟩ := h
    unfold endSave
    split
    · exact ⟨waiting, total⟩
    · rename_i j writes
      have was : saving p = 1 := by unfold saving; rw [writes]; rfl
      have now : (savedStore j passes p.store).save = none := by unfold savedStore; split <;> rfl
      have gone : saving (putNotice (.storeSaved passes j.image.generation) (putReply (.ok j.tag saveKind (.saved passes j.image.generation))
          { p with store := savedStore j passes p.store })) = 0 := by
        unfold saving
        rw [putNotice_store, putReply_store, now]
        rfl
      refine ⟨?_, ?_⟩
      · rw [putNotice_requests]; exact waiting
      · rw [putNotice_requests, putNotice_replies, gone]
        simp only [putReply, List.length_append, List.length_singleton]
        omega
  loaded {p} h := by
    cases loading : p.store.loading with
    | false => rw [endLoad_idle loading]; exact h
    | true =>
      have frame := endLoad_frame loading
      obtain ⟨waiting, total⟩ := h
      have same : saving (endLoad p) = saving (loadedPart p) := saving_of_save (congrArg CueStore.save frame.store)
      exact ⟨Nat.le_trans frame.fewer waiting, by rw [same, frame.total]; exact total⟩
  begins _ := ⟨Nat.zero_le _, Nat.zero_le _⟩

/-! ### The note and the save (R15, R16, R18) -/

theorem imageIn_setImage_self (ar : Area) (v : Option Image) (c : CueStore) : imageIn (setImage ar v c) ar = v := by
  cases ar with
  | a => rfl
  | b => rfl

theorem imageIn_setImage_ne {ar other : Area} (v : Option Image) (c : CueStore) (h : ar ≠ other) :
    imageIn (setImage ar v c) other = imageIn c other := by
  cases ar with
  | a => cases other with
    | a => exact absurd rfl h
    | b => rfl
  | b => cases other with
    | a => rfl
    | b => exact absurd rfl h

theorem setImage_note (ar : Area) (v : Option Image) (c : CueStore) : (setImage ar v c).note = c.note := by
  cases ar with
  | a => rfl
  | b => rfl

theorem setImage_loading (ar : Area) (v : Option Image) (c : CueStore) : (setImage ar v c).loading = c.loading := by
  cases ar with
  | a => rfl
  | b => rfl

/-- A save writes the area that the note does not name (R15). -/
theorem saveArea_ne_note {c : CueStore} {ar : Area} (h : c.note = some ar) : saveArea c ≠ ar := by
  unfold saveArea
  rw [h]
  cases ar with
  | a => exact Area.noConfusion
  | b => exact Area.noConfusion

/-- The area that a load chooses holds an image (R15, R18). -/
theorem imageIn_loadArea {c : CueStore} {ar : Area} (h : loadArea c = some ar) : imageIn c ar ≠ none := by
  unfold loadArea at h
  split at h
  · cases h
  · rename_i held _; cases h; simp [imageIn, held]
  · rename_i held; cases h; simp [imageIn, held]
  · rename_i heldA heldB
    split at h
    · cases h; simp [imageIn, heldA]
    · cases h; simp [imageIn, heldB]

/-- What the note and the save rest on: the areas, the note, the save and whether a load runs. -/
structure SameSaves (c d : CueStore) : Prop where
  areaA : d.areaA = c.areaA
  areaB : d.areaB = c.areaB
  note : d.note = c.note
  save : d.save = c.save
  loading : d.loading = c.loading

theorem NoteHolds.of_same {c d : CueStore} (s : SameSaves c d) (h : NoteHolds c) : NoteHolds d := by
  intro ar noted
  obtain ⟨holds, apart⟩ := h ar (s.note ▸ noted)
  refine ⟨?_, fun j writes => apart j (s.save ▸ writes)⟩
  cases ar with
  | a => exact fun e => holds (s.areaA.symm.trans e)
  | b => exact fun e => holds (s.areaB.symm.trans e)

theorem LoadsAlone.of_same {c d : CueStore} (s : SameSaves c d) (h : LoadsAlone c) : LoadsAlone d := fun loading => by
  rw [s.save]; exact h (s.loading ▸ loading)

/-- No save executes while the settings load; and, where it is asked, the note holds. The second rests on the first. -/
def SavesSound (asked : Prop) (p : Blocks) : Prop := LoadsAlone p.store ∧ (asked → NoteHolds p.store)

theorem AnswerFrame.saves {p q : Blocks} (a : AnswerFrame p q) : SameSaves p.store q.store := ⟨a.areaA, a.areaB, a.note, a.save, a.loading⟩

theorem SameSaves.of_eq {c d : CueStore} (h : d = c) : SameSaves c d := by subst h; exact ⟨rfl, rfl, rfl, rfl, rfl⟩

theorem imageIn_beginSave (tag : Byte) (p : Blocks) (ar : Area) :
    imageIn (beginSave tag p).store ar = imageIn (setImage (saveArea p.store) none p.store) ar := by
  cases ar with
  | a => rfl
  | b => rfl

theorem imageIn_savedStore (j : SaveJob) (passes : Bool) (c : CueStore) (ar : Area) :
    imageIn (savedStore j passes c) ar = imageIn (setImage j.area (if passes then some j.image else none) c) ar := by
  cases passes with
  | true => cases ar with
    | a => rfl
    | b => rfl
  | false => cases ar with
    | a => rfl
    | b => rfl

theorem savedStore_save (j : SaveJob) (passes : Bool) (c : CueStore) : (savedStore j passes c).save = none := by
  cases passes with
  | true => rfl
  | false => rfl

theorem noteHolds_beginSave (tag : Byte) {p : Blocks} (h : NoteHolds p.store) : NoteHolds (beginSave tag p).store := by
  intro ar noted
  have was : p.store.note = some ar := (setImage_note (saveArea p.store) none p.store).symm.trans noted
  have apart := saveArea_ne_note was
  refine ⟨?_, fun j writes => by cases writes; exact apart⟩
  rw [imageIn_beginSave, imageIn_setImage_ne none p.store apart]
  exact (h ar was).1

theorem noteHolds_savedStore {j : SaveJob} (passes : Bool) {c : CueStore} (writes : c.save = some j) (h : NoteHolds c) :
    NoteHolds (savedStore j passes c) := by
  intro ar noted
  have ended : ∀ k, (savedStore j passes c).save = some k → k.area ≠ ar := fun k writing => by
    rw [savedStore_save] at writing; cases writing
  refine ⟨?_, ended⟩
  rw [imageIn_savedStore]
  cases passes with
  | true =>
    cases noted
    rw [imageIn_setImage_self]
    exact Option.some_ne_none _
  | false =>
    obtain ⟨holds, apart⟩ := h ar ((setImage_note j.area none c).symm.trans noted)
    rw [imageIn_setImage_ne _ c (apart j writes)]
    exact holds

/-- The note that a load sets names an area that holds an image, and no save runs then. -/
theorem noteHolds_loadedPart {p : Blocks} (alone : p.store.save = none) : NoteHolds (loadedPart p).store := by
  intro ar noted
  refine ⟨?_, fun j writes => by rw [show p.store.save = some j from writes] at alone; cases alone⟩
  have held := imageIn_loadArea (c := p.store) noted
  cases ar with
  | a => exact held
  | b => exact held

section
variable {asked : Prop} {p q : Blocks}

theorem SavesSound.of_same (s : SameSaves p.store q.store) (h : SavesSound asked p) : SavesSound asked q :=
  ⟨h.1.of_same s, fun ask => (h.2 ask).of_same s⟩

theorem SavesSound.takeQueued (x : Queued) (may : mayTake p = true) (h : SavesSound asked p) : SavesSound asked (takeQueued x p) := by
  have answered {q : Blocks} (a : AnswerFrame p q) : SavesSound asked q := h.of_same a.saves
  unfold Machine.takeQueued
  split
  · exact answered (AnswerFrame.putReply _ p)
  · exact answered (AnswerFrame.putReply _ p)
  · exact answered (AnswerFrame.putReply _ p)
  · rename_i r _
    by_cases save : r = .saveStore
    · subst save
      have loaded : p.store.loading = false := (save_of_mayTake may).1
      have still : (beginSave x.tag p).store.loading = p.store.loading := setImage_loading (saveArea p.store) none p.store
      exact ⟨fun loading => Bool.noConfusion (loaded.symm.trans (still.symm.trans loading)), fun ask => noteHolds_beginSave x.tag (h.2 ask)⟩
    · exact answered (takeRequest_answers _ _ r p save)

theorem SavesSound.endSave (passes : Bool) (h : SavesSound asked p) : SavesSound asked (endSave passes p) := by
  unfold Machine.endSave
  split
  · exact h
  · rename_i j writes
    refine ⟨fun _ => ?_, fun ask => ?_⟩
    · rw [putNotice_store]; exact savedStore_save j passes p.store
    · rw [putNotice_store]; exact noteHolds_savedStore passes writes (h.2 ask)

theorem SavesSound.endLoad (h : SavesSound asked p) : SavesSound asked (endLoad p) := by
  cases loading : p.store.loading with
  | false => rw [endLoad_idle loading]; exact h
  | true =>
    have ended : SavesSound asked (loadedPart p) := ⟨fun again => Bool.noConfusion again, fun _ => noteHolds_loadedPart (h.1 loading)⟩
    exact ended.of_same (SameSaves.of_eq (endLoad_frame loading).store)

theorem SavesSound.powerUp (h : SavesSound asked p) : SavesSound asked (powerUp p) := by
  refine ⟨fun _ => rfl, fun ask ar noted => ⟨?_, fun j writes => nomatch writes⟩⟩
  have holds := (h.2 ask ar noted).1
  cases ar with
  | a => exact holds
  | b => exact holds

end

theorem savesKept (asked : Prop) : CountKept (SavesSound asked) where
  quiet f h := h.of_same (SameSaves.of_eq f.store)
  taken {p x rest} _ may h :=
    SavesSound.takeQueued (p := modLink (fun l => { l with requests := rest }) p) x may (h.of_same (SameSaves.of_eq rfl))
  joined x p _ h := by
    unfold joinQueue
    split
    · exact h.of_same (SameSaves.of_eq rfl)
    · exact h.of_same (SameSaves.of_eq rfl)
  replied _ _ _ h := h.of_same (SameSaves.of_eq rfl)
  prompt tag kind r p _ immediate h := h.of_same (takeRequest_answers tag kind r p (notSave_of_immediate immediate)).saves
  saved passes _ h := h.endSave passes
  loaded h := h.endLoad
  begins h := h.powerUp

/-! ### What every step keeps -/

/-- Settles O57. The queue, the failures, the notices and the foresight are kept by every update of every command; the counts of the link by each operation that makes, takes or sends. -/
theorem everyStepKeepsTheQueues : Obligations.EveryStepKeepsTheQueues := fun s t h =>
  ⟨queueEdits.step s t h, failuresEdits.step s t h, noticesEdits.step s t h, linkKept.step h, unforeseenEdits.step s t h⟩

/-- Settles O58. The stacks rest on the distinct channels of the stored shows, which every update keeps together; the note and the save change at a save's beginning and end, a load's end and power-up alone. -/
theorem everyStepKeepsTheStacks : Obligations.EveryStepKeepsTheStacks := fun s t h =>
  ⟨fun distinct increasing => stacksEdits.step s t h ⟨distinct, increasing⟩,
    fun alone holds => ((savesKept True).step h ⟨alone, fun _ => holds⟩).2 trivial,
    fun alone => ((savesKept False).step h ⟨alone, False.elim⟩).1⟩

/-- Settles O59. A flag is set only at a source with an idle timer while no alarm stands, a timer is loaded only as its flag is cleared, and an alarm entry clears every flag. -/
theorem everyStepKeepsTheSources : Obligations.EveryStepKeepsTheSources := fun s t h armed clear =>
  sourcesEdits.step s t h ⟨armed, clear⟩

end Sys2Proof.Machine

/-! SUPPORT. Power-up, reset and the running of one command: what a settings load begins with, table by table, and that a part so begun meets every condition. -/

namespace Sys2Proof.Machine

/-! ### Steps -/

/-- Settles O1: the queue's front is matched by the step's own case. -/
theorem stepRunsTheFrontCommand : Obligations.StepRunsTheFrontCommand := fun _ _ _ => rfl

/-- Settles O2: the step's other case. -/
theorem anEmptyQueueIdles : Obligations.AnEmptyQueueIdles := fun s empty => by
  unfold step
  rw [empty]

theorem happens_becomes (f : Blocks → Blocks) (s : State) : happens f s = becomes s (finish (f s.part)) := rfl

/-- Settles O3: a request's command is the arrival of its request, and every other command but SHOW_TICK happens as one event. -/
theorem everyCommandGoesOn : Obligations.EveryCommandGoesOn := by
  intro c s
  cases arrival : arrivalOf c with
  | some a => exact ⟨_, exec_arrival arrival s⟩
  | none =>
    cases c
    case showTick order => exact ⟨showTick order s.part, rfl⟩
    all_goals exact ⟨_, rfl⟩

/-! ### What a load begins with -/

section
variable (areaA areaB : Option Image) (note : Option Area) (n : Nat)

theorem loadBegins_ownersOf {ch : Nat} (h : ch < 128) : ownersOf (Blocks.loadBegins areaA areaB note n) ch = [] := tget_replicate _ _ h

theorem loadBegins_slotOf {k : Nat} (h : k < 16) : slotOf (Blocks.loadBegins areaA areaB note n) k = none := tget_replicate _ _ h

theorem loadBegins_nodeRecord {m : Nat} (low : 1 ≤ m) (high : m ≤ 32) :
    nodeRecord (Blocks.loadBegins areaA areaB note n) m = NodeRecord.initial := by
  have inTable : m - 1 < 32 := by omega
  unfold nodeRecord
  rw [if_neg (Nat.ne_of_gt low)]
  simp only [Blocks.loadBegins, BusController.initial, Vector.toList_replicate]
  rw [List.getD_eq_getElem _ _ (by rw [List.length_replicate]; exact inTable), List.getElem_replicate]

theorem loadBegins_source {i : Nat} (h : i < 64) :
    tget (Blocks.loadBegins areaA areaB note n).trigger.sources i = SourceWork.initial := tget_replicate _ _ h

theorem loadBegins_law {ch : Nat} (h : ch < 128) : tget (Blocks.loadBegins areaA areaB note n).level.laws ch = LawWork.initial :=
  tget_replicate _ _ h

/-- With nothing to send and no request waiting, the end of the event changes nothing. -/
theorem finish_idle {p : Blocks} (requests : p.link.requests = []) (replies : p.link.replies = []) (notices : p.link.notices = []) :
    finish p = p := by
  rw [finish_empty requests]
  unfold transmit
  rw [replies, notices]
  cases p.link.transmitting with
  | none => rfl
  | some f => rfl

end

/-- Settles O4. Every table of a load's beginning is one value repeated; the event of power-up and of the reset line ends with nothing to take or send. -/
theorem powerAndResetLineBeginALoad : Obligations.PowerAndResetLineBeginALoad := by
  refine ⟨⟨fun a b note n => ⟨_, rfl, rfl, fun ch h => loadBegins_ownersOf a b note n h, rfl, rfl,
    fun k h => loadBegins_slotOf a b note n h, fun id h => tget_replicate _ _ h, rfl, rfl, rfl, rfl,
    fun m low high => loadBegins_nodeRecord a b note n low high, fun l h => tget_replicate _ _ h,
    fun i h => ?_, fun i h => tget_replicate _ _ h, fun g h => tget_replicate _ _ h, fun ch h => ?_,
    rfl, rfl, rfl, rfl, rfl, rfl, rfl, rfl, rfl, rfl, rfl, rfl, rfl, rfl, rfl, rfl, rfl, rfl, rfl, rfl, rfl, rfl⟩, rfl⟩,
    fun s => ⟨?_, ?_⟩⟩
  · rw [loadBegins_source a b note n h]; exact ⟨rfl, rfl⟩
  · rw [loadBegins_law a b note n h]; exact ⟨rfl, rfl, rfl⟩
  · exact congrArg (becomes s) (finish_idle rfl rfl rfl)
  · exact congrArg (becomes s) (finish_idle (p := resetLine s.part) rfl rfl rfl)

/-- Settles O60: the queues are empty, no flag is set, no failure counted, no show stored and no area noted. -/
theorem resetMeetsTheInvariants : Obligations.ResetMeetsTheInvariants := by
  refine ⟨⟨List.Pairwise.nil, Nat.zero_le _⟩, fun r held => ?_, Nat.zero_le _, ⟨Nat.zero_le _, Nat.zero_le _⟩,
    ⟨showsDistinct_initial, fun _ held => (nomatch held), fun _ held => (nomatch held), fun _ writes => (nomatch writes)⟩, fun es held => ?_,
    fun _ noted => (nomatch noted), fun _ => rfl, ?_, ?_, rfl⟩
  · rw [mem_replicate _ _ held]; exact Nat.zero_le _
  · rw [mem_replicate _ _ held]; exact List.Pairwise.nil
  · exact (sourcesSound_fresh State.reset.part rfl).1
  · exact (sourcesSound_fresh State.reset.part rfl).2

end Sys2Proof.Machine

/-! SUPPORT. The host link: how a frame arrives by its kind and by what waits, what the end of an event comes to, and what the transmitter takes (R173 to R178). -/

namespace Sys2Proof.Machine

/-! ### Arrival (R174, R176) -/

section
variable (x : Queued) {p : Blocks}

theorem arrive_of_full (h : 8 ≤ p.link.replies.length) : arrive x p = overrunNow p := if_pos h

theorem arrive_of_loading (h : p.link.replies.length < 8) (loading : p.store.loading = true) : arrive x p = joinQueue x p := by
  rw [arrive, if_neg (Nat.not_le.mpr h), if_pos loading]

theorem arrive_of_loaded (h : p.link.replies.length < 8) (loaded : p.store.loading = false) : arrive x p = checkFrame x p := by
  rw [arrive, if_neg (Nat.not_le.mpr h), loaded]
  rfl

theorem joinQueue_of_lt (h : p.link.requests.length < 4) :
    joinQueue x p = { p with link := { p.link with requests := p.link.requests ++ [x] } } := if_pos h

theorem joinQueue_of_ge (h : 4 ≤ p.link.requests.length) : joinQueue x p = putReply (.refused x.tag x.kind .busy) p :=
  if_neg (Nat.not_lt.mpr h)

end

theorem requestImmediate_iff (r : Request) :
    requestImmediate r = true ↔ r = .getStatus ∨ r = .stopAll ∨ r = .alarmAck ∨ r = .reset := by
  cases r <;> simp [requestImmediate]

theorem requestImmediate_false {r : Request} (status : r ≠ .getStatus) (stop : r ≠ .stopAll) (ack : r ≠ .alarmAck) (reset : r ≠ .reset) :
    requestImmediate r = false := by
  cases immediate : requestImmediate r with
  | false => rfl
  | true =>
    rcases (requestImmediate_iff r).mp immediate with h | h | h | h
    · exact absurd h status
    · exact absurd h stop
    · exact absurd h ack
    · exact absurd h reset

section
variable (x : Queued) (p : Blocks)

theorem takeQueued_unknownKind (h : x.content = .unknownKind) : takeQueued x p = putReply (.refused x.tag x.kind .unknownKind) p := by
  rw [takeQueued, h]

theorem takeQueued_badLength (h : x.content = .badLength) : takeQueued x p = putReply (.refused x.tag x.kind .badLength) p := by
  rw [takeQueued, h]

theorem takeQueued_badForm (h : x.content = .badForm) : takeQueued x p = putReply (.refused x.tag x.kind .badField) p := by
  rw [takeQueued, h]

theorem takeQueued_request {r : Request} (h : x.content = .request r) : takeQueued x p = takeRequest x.tag x.kind r p := by
  rw [takeQueued, h]

theorem checkFrame_unknownKind (h : x.content = .unknownKind) : checkFrame x p = takeQueued x p := by rw [checkFrame, h]

theorem checkFrame_badLength (h : x.content = .badLength) : checkFrame x p = takeQueued x p := by rw [checkFrame, h]

theorem checkFrame_badForm (h : x.content = .badForm) : checkFrame x p = joinQueue x p := by rw [checkFrame, h]

theorem checkFrame_immediate {r : Request} (h : x.content = .request r) (immediate : requestImmediate r = true) :
    checkFrame x p = takeQueued x p := by
  rw [takeQueued_request x p h, checkFrame, h]
  exact if_pos immediate

theorem checkFrame_waits {r : Request} (h : x.content = .request r) (waits : requestImmediate r = false) : checkFrame x p = joinQueue x p := by
  rw [checkFrame, h]
  exact if_neg (Bool.eq_false_iff.mp waits)

end

/-! ### The end of an event (R175, R177) -/

section
variable {p : Blocks}

theorem mayTake_of (loaded : p.store.loading = false) (free : p.store.save = none) (room : p.link.replies.length < 8) : mayTake p = true := by
  simp [mayTake, loaded, free, room]

theorem mayTake_of_loading (h : p.store.loading = true) : mayTake p = false := by simp [mayTake, h]

theorem mayTake_of_save (h : p.store.save ≠ none) : mayTake p = false := by
  cases save : p.store.save with
  | none => exact absurd save h
  | some j => simp [mayTake, save]

theorem mayTake_of_full (h : 8 ≤ p.link.replies.length) : mayTake p = false := by simp [mayTake, h]

theorem finish_of_loading (h : p.store.loading = true) : finish p = transmit p :=
  finish_stuck fun _ same => mayTake_of_loading (same ▸ h)

theorem finish_of_save (h : p.store.save ≠ none) : finish p = transmit p :=
  finish_stuck fun _ same => mayTake_of_save (same ▸ h)

variable {x : Queued} {rest : List Queued} (waits : p.link.requests = x :: rest)
include waits

theorem finish_takes (may : mayTake p = true) : finish p = finish (takeQueued x { p with link := { p.link with requests := rest } }) := by
  unfold finish
  rw [serve_cons waits may]
  rfl

/-- With the reply list full, the transmitter looks first (R177). -/
theorem refill_stuck (stuck : mayTake p = false) : refill (serve p) = serve (transmit p) := by
  rw [serve_stuck stuck, refill, waits]
  rfl

theorem finish_sends (stuck : mayTake p = false) (sends : (transmit p).link.transmitting ≠ none) : finish p = finish (transmit p) := by
  obtain ⟨f, sending⟩ := Option.ne_none_iff_exists'.mp sends
  have served : (serve (transmit p)).link.transmitting ≠ none := by
    rw [(serve_frame (transmit p)).transmitting]; exact sends
  have settled : refill (serve (transmit p)) = serve (transmit p) := by
    unfold refill
    rw [transmit_busy served, serve_serve]
    exact ite_self _
  unfold finish
  rw [refill_stuck waits stuck, settled]

theorem finish_busy (full : 8 ≤ p.link.replies.length) (sending : p.link.transmitting ≠ none) : finish p = transmit p := by
  have stuck := mayTake_of_full full
  unfold finish
  rw [refill_stuck waits stuck, transmit_busy sending, serve_stuck stuck]
  exact transmit_busy sending

end

/-- Nothing waits once a request has been taken from an empty queue. -/
theorem takeQueued_requests {p : Blocks} (x : Queued) (h : p.link.requests = []) : (takeQueued x p).link.requests = [] :=
  List.eq_nil_of_length_eq_zero (Nat.le_zero.mp ((takeQueued_frame x p).fewer.trans_eq (congrArg List.length h)))

/-- A request that arrives at a part that is ready is taken as one that has waited is. -/
theorem exec_ready {c : Instr} {tag : Byte} {r : Request} {s : State} (h : arrivalOf c = some (tag, r)) (ready : Ready s.part) :
    exec c s = becomes s (finish (takeQueued { tag := tag, kind := kindOfRequest r, content := .request r } s.part)) := by
  rw [exec_arrival h, happens_becomes, taken_at_arrival tag r s.part ready, finish_empty (takeQueued_requests _ ready.empty)]
  rfl

/-- A request that is not taken at its arrival waits, or is refused where four wait (R174). -/
theorem arrive_held {s : State} (tag : Byte) (r : Request) (room : s.part.link.replies.length < 8)
    (held : s.part.store.loading = true ∨
      s.part.store.save ≠ none ∧ r ≠ .getStatus ∧ r ≠ .stopAll ∧ r ≠ .alarmAck ∧ r ≠ .reset) :
    arriveRequest tag r s.part = joinQueue { tag := tag, kind := kindOfRequest r, content := .request r } s.part ∧
      ∀ q : Blocks, q.store = s.part.store → finish q = transmit q := by
  rcases held with loading | ⟨saves, status, stop, ack, reset⟩
  · exact ⟨arrive_of_loading _ room loading, fun q same => finish_of_loading (same ▸ loading)⟩
  · refine ⟨?_, fun q same => finish_of_save (same ▸ saves)⟩
    have waits := requestImmediate_false status stop ack reset
    cases loading : s.part.store.loading with
    | true => exact arrive_of_loading _ room loading
    | false => exact (arrive_of_loaded _ room loading).trans (checkFrame_waits _ _ rfl waits)

/-- Settles O6: the arrival by what holds the request back, then what the end of an event does with the oldest request that waits. -/
theorem aRequestWaitsOrIsTurnedAway : Obligations.ARequestWaitsOrIsTurnedAway := by
  refine ⟨fun c tag r s arrival => ⟨fun empty full => ?_, fun room held => ?_⟩, fun p x rest waits => ⟨?_, ?_, ?_⟩, fun p => finish_empty,
    fun p x => ⟨takeQueued_unknownKind x p, takeQueued_badLength x p, takeQueued_badForm x p⟩,
    fun c tag r s arrival ready => exec_ready arrival ready⟩
  · rw [exec_arrival arrival, happens_becomes, arriveRequest, arrive_of_full _ full, finish_empty (p := overrunNow s.part) empty]
    rfl
  · obtain ⟨joins, ends⟩ := arrive_held tag r room held
    rw [exec_arrival arrival, happens_becomes, joins]
    refine ⟨fun few => ?_, fun many => ?_⟩
    · rw [joinQueue_of_lt _ few]
      exact congrArg (becomes s) (ends _ rfl)
    · rw [joinQueue_of_ge _ many]
      exact congrArg (becomes s) (ends _ rfl)
  · exact fun loaded free room => finish_takes waits (mayTake_of loaded free room)
  · intro _ _ full idle
    refine finish_sends waits (mayTake_of_full full) ?_
    obtain ⟨r, rs, replies⟩ := List.exists_cons_of_length_pos (Nat.lt_of_lt_of_le (by decide) full)
    simp [transmit, idle, replies]
  · rintro (loading | saves | ⟨full, sending⟩)
    · exact finish_of_loading loading
    · exact finish_of_save saves
    · exact finish_busy waits full sending

/-! ### The transmitter (R177, R178) -/

section
variable {p : Blocks} (idle : p.link.transmitting = none)
include idle

theorem transmit_reply {r : Reply} {rs : List Reply} (h : p.link.replies = r :: rs) :
    transmit p = { p with link := { p.link with transmitting := some (.reply r), replies := rs } } := by
  unfold transmit
  rw [idle, h]
  rfl

theorem transmit_notice {n : Notice} {ns : List Notice} (empty : p.link.replies = []) (h : p.link.notices = n :: ns) :
    transmit p = { p with link := { p.link with
      transmitting := some (.notice n p.link.lost (Config.noticeTag p.link.freeCount)), notices := ns, lost := false,
      freeCount := p.link.freeCount + 1 } } := by
  unfold transmit
  rw [idle, empty, h]
  rfl

theorem transmit_idle (replies : p.link.replies = []) (notices : p.link.notices = []) : transmit p = p := by
  unfold transmit
  rw [idle, replies, notices]

end

theorem frameSent_idle (p : Blocks) : (frameSent p).link.transmitting = none := rfl

/-- The end of a frame's event where no request can be taken. -/
theorem finish_frameSent {p : Blocks} (h : p.link.requests = [] ∨ p.store.loading = true ∨ p.store.save ≠ none) :
    finish (frameSent p) = transmit (frameSent p) := by
  rcases h with empty | loading | saves
  · exact finish_empty empty
  · exact finish_of_loading loading
  · exact finish_of_save saves

theorem exec_transmitFrameEnd (s : State) : exec .transmitFrameEnd s = becomes s (finish (frameSent s.part)) := rfl

/-! ### The frame being sent -/

section
variable (p : Blocks)

theorem joinQueue_transmitting (x : Queued) : (joinQueue x p).link.transmitting = p.link.transmitting := by
  unfold joinQueue
  split
  · rfl
  · rfl

theorem arrive_transmitting (x : Queued) : (arrive x p).link.transmitting = p.link.transmitting := by
  unfold arrive
  split
  · rfl
  split
  · exact joinQueue_transmitting p x
  unfold checkFrame
  split
  · exact (takeQueued_frame x p).transmitting
  · exact (takeQueued_frame x p).transmitting
  · exact joinQueue_transmitting p x
  · split
    · exact (takeRequest_frame _ _ _ p).transmitting
    · exact joinQueue_transmitting p x

theorem rejectFrame_transmitting (cause : FrameCause) : (rejectFrame cause p).link.transmitting = p.link.transmitting := by
  unfold rejectFrame
  split
  · rfl
  · rfl

theorem completeFrame_transmitting (len : Nat) (got : List Byte) : (completeFrame len got p).link.transmitting = p.link.transmitting := by
  unfold completeFrame
  split
  · split
    · exact arrive_transmitting p _
    · exact rejectFrame_transmitting p _
  · exact rejectFrame_transmitting p _

theorem receiveByte_transmitting (b : Byte) : (receiveByte b p).link.transmitting = p.link.transmitting := by
  unfold receiveByte
  split
  · split
    · rfl
    · rfl
  · split
    · rfl
    · exact rejectFrame_transmitting (setAssembler .hunting p) _
  · split
    · rfl
    · exact completeFrame_transmitting (setAssembler .hunting p) _ _

theorem frameGap_transmitting : (frameGap p).link.transmitting = p.link.transmitting := by
  unfold frameGap
  split
  · rfl
  · exact rejectFrame_transmitting (setAssembler .hunting p) _
  · exact rejectFrame_transmitting (setAssembler .hunting p) _

theorem endSave_transmitting (passes : Bool) : (endSave passes p).link.transmitting = p.link.transmitting := by
  unfold endSave
  split
  · rfl
  · rw [putNotice_transmitting]; rfl

theorem endLoad_transmitting : (endLoad p).link.transmitting = p.link.transmitting := by
  cases loading : p.store.loading with
  | false => rw [endLoad_idle loading]
  | true => exact (endLoad_frame loading).transmitting

end

section
variable {f : TxFrame} {p : Blocks} (sending : p.link.transmitting = some f)
include sending

theorem takerEvents_transmitting (ts : List TickTaker) : (takerEvents ts p).link.transmitting = some f := by
  refine List.foldlRecOn (motive := fun q => q.link.transmitting = some f) ts takerEvent sending fun q hq t _ => ?_
  unfold takerEvent
  split
  · exact finish_transmitting ((eventFrame.takeTick t _).transmitting.trans hq)
  · exact hq

theorem tickInstant_transmitting : (tickInstant p).link.transmitting = some f := by
  unfold tickInstant
  exact sending

theorem nextInstant_transmitting : (nextInstant p).link.transmitting = some f := by
  unfold nextInstant
  exact finish_transmitting (tickInstant_transmitting (takerEvents_transmitting sending allTakers))

theorem showTick_transmitting (o : TickOrder) : (showTick o p).link.transmitting = some f := by
  unfold showTick
  refine takerEvents_transmitting ?_ _
  split
  · exact nextInstant_transmitting sending
  · exact sending

end

theorem happens_transmitting {g : Blocks → Blocks} {s t : State} {f : TxFrame} (h : happens g s = .next t)
    (sending : (g s.part).link.transmitting = some f) : t.part.link.transmitting = some f := by
  cases h
  exact finish_transmitting sending

/-- A frame that the transmitter has begun is sent whole (R177). -/
theorem exec_transmitting {c : Instr} {s t : State} {f : TxFrame} (notSent : c ≠ .transmitFrameEnd) (notPower : c ≠ .powerUp)
    (notPulse : c ≠ .resetLinePulse) (sending : s.part.link.transmitting = some f) (h : exec c s = .next t) :
    t.part.link.transmitting = some f := by
  have e := eventFrame
  have event {g : Blocks → Blocks} (hg : happens g s = .next t) (frame : EventFrame s.part (g s.part)) :
      t.part.link.transmitting = some f := happens_transmitting hg (frame.transmitting.trans sending)
  cases arrival : arrivalOf c with
  | some a => exact happens_transmitting (exec_arrival arrival s ▸ h) ((arrive_transmitting _ _).trans sending)
  | none =>
    cases c
    case powerUp => exact absurd rfl notPower
    case resetLinePulse => exact absurd rfl notPulse
    case transmitFrameEnd => exact absurd rfl notSent
    case settingsLoadEnd => exact happens_transmitting h ((endLoad_transmitting _).trans sending)
    case receiveByte b => exact happens_transmitting h ((receiveByte_transmitting _ b).trans sending)
    case frameGap => exact happens_transmitting h ((frameGap_transmitting _).trans sending)
    case saveWriteEnd v => exact happens_transmitting h ((endSave_transmitting _ v).trans sending)
    case showTick o => cases h; exact showTick_transmitting sending o
    case primeTimeout k => exact event h (e.primeExpires k _)
    case holdTimeout k => exact event h (e.holdExpires k _)
    case restTimerExpiry n => exact event h (e.restIdle n _)
    case rearmTimerExpiry n => exact event h (e.rearmExpires n _)
    case pollingRound => exact event h (e.pollNow _)
    case escalation => exact event h (e.escalationExpires _)
    case dayClockAdvance => exact event h (e.dayAdvance _)
    case syncPulse t => exact event h (e.syncPulse t _)
    case syncLost => exact event h (e.syncLoss _)
    case lineSample l v => exact event h (e.lineSample l v _)
    case repeatEvent l => exact event h (e.repeatEvent l _)
    case levelSample g n => exact event h (e.levelSample g n _)
    case alarmLineSample a => exact event h (e.alarmSample a _)
    case nodeReply b => exact event h (e.nodeReply b _)
    case replyTimeout => exact event h (e.replyTimeout _)
    case hushSent => exact event h (e.hushSent _)
    all_goals cases arrival

/-- Settles O8. The transmitter looks at the replies and then at the notices; with 8 replies it looks before the requests are served; and only the end of a frame, power-up and the reset line make it idle. -/
theorem repliesGoBeforeNotices : Obligations.RepliesGoBeforeNotices := by
  refine ⟨fun s => ⟨rfl, fun r rs x rest loaded free waits replies seven => ?_⟩, fun s held => ⟨fun r rs replies => ?_,
    fun n ns none notices => ?_, fun none silent => ?_⟩, fun p f sending => transmit_busy (by rw [sending]; exact Option.some_ne_none f),
    fun c s t f notSent notPower notPulse sending h => exec_transmitting notSent notPower notPulse sending h⟩
  · have sent : transmit (frameSent s.part) =
        { frameSent s.part with link := { (frameSent s.part).link with transmitting := some (.reply r), replies := rs } } :=
      transmit_reply (frameSent_idle s.part) replies
    have full : 8 ≤ (frameSent s.part).link.replies.length := by
      rw [show (frameSent s.part).link.replies = r :: rs from replies, List.length_cons, seven]
    have room : rs.length < 8 := by omega
    rw [exec_transmitFrameEnd, finish_sends (p := frameSent s.part) waits (mayTake_of_full full) (by rw [sent]; exact Option.some_ne_none _),
      sent]
    exact congrArg (becomes s) (finish_takes waits (mayTake_of loaded free room))
  · rw [exec_transmitFrameEnd, finish_frameSent held, transmit_reply (frameSent_idle s.part) replies]
    rfl
  · rw [exec_transmitFrameEnd, finish_frameSent held, transmit_notice (frameSent_idle s.part) none notices]
    rfl
  · rw [exec_transmitFrameEnd, finish_frameSent held, transmit_idle (frameSent_idle s.part) none silent]
    rfl

/-! ### The notice queue (R178) -/

theorem putNotice_of_lt (n : Notice) {p : Blocks} (h : p.link.notices.length < 32) :
    putNotice n p = { p with link := { p.link with notices := p.link.notices ++ [n] } } := if_pos h

theorem putNotice_of_ge (n : Notice) {p : Blocks} (h : 32 ≤ p.link.notices.length) : putNotice n p = { p with link := { p.link with lost := true } } :=
  if_neg (Nat.not_lt.mpr h)

theorem resetNotices_eq (p : Blocks) : resetNotices p = { p with link := { p.link with notices := [.resetDone], lost := false } } :=
  putNotice_of_lt .resetDone (p := { p with link := { p.link with notices := [], lost := false } }) (Nat.zero_lt_succ 31)

theorem transmit_lost_of_replies {p : Blocks} (h : p.link.replies ≠ []) : (transmit p).link.lost = p.link.lost := by
  unfold transmit
  split
  · rfl
  · rfl
  · rename_i empty _; exact absurd empty h
  · rfl

theorem part_of_becomes {s t : State} {p : Blocks} (h : becomes s p = .next t) : t.part = p := by
  cases h
  rfl

/-- Settles O9. A request answered at its arrival leaves a reply, which goes before any notice, so GET-STATUS takes no notice out. -/
theorem theNoticeQueueHolds32 : Obligations.TheNoticeQueueHolds32 := by
  refine ⟨fun n p => putNotice_of_lt n, fun n p => putNotice_of_ge n, fun p n ns idle empty notices => ?_, fun s tag t ready h => ?_,
    fun s t h => ?_, fun s tag t f ready sending h => ?_⟩
  · rw [transmit_notice idle empty notices]
    exact ⟨_, rfl, rfl, rfl⟩
  · have answer : exec (.getStatus tag) s = repliesOk s tag 36 (.status (statusOf s.part)) { s.part with link := { s.part.link with overrun := false } } :=
      repliesOk_of ready rfl rfl
    rw [part_of_becomes (answer.symm.trans h)]
    exact transmit_lost_of_replies (List.append_ne_nil_of_right_ne_nil _ (List.cons_ne_nil _ _))
  · rcases h with h | h
    · cases h; rw [finish_idle (p := powerUp s.part) rfl rfl rfl]; exact ⟨rfl, rfl⟩
    · cases h; rw [finish_idle (p := resetLine s.part) rfl rfl rfl]; exact ⟨rfl, rfl⟩
  · have answer : exec (.reset tag) s = becomes s (transmit (resetPart tag s.part)) :=
      (exec_arrival (c := .reset tag) rfl s).trans (happens_request tag .reset s ready)
    have sent : (resetPart tag s.part).link.transmitting = some f := (resetPart_transmitting tag s.part).trans sending
    have emptied : ∃ q : Blocks, resetPart tag s.part = { q with link := { q.link with notices := [.resetDone], lost := false } } :=
      ⟨_, resetNotices_eq _⟩
    rw [part_of_becomes (answer.symm.trans h), transmit_busy (by rw [sent]; exact Option.some_ne_none f)]
    obtain ⟨q, emptied⟩ := emptied
    exact ⟨sent, by rw [emptied], by rw [emptied]⟩

end Sys2Proof.Machine

/-! SUPPORT. The bytes of a request: every body that is read as a request is one of the kind its frame names (R174, R183). -/

namespace Sys2Proof.Machine

/-! ### Readers -/

/-- Whatever a reader reads meets the condition. -/
def Reads {α : Type} (P : α → Prop) (r : Reader α) : Prop := ∀ bytes a rest, r bytes = some (a, rest) → P a

theorem Reads.value {α : Type} {P : α → Prop} {a : α} (h : P a) : Reads P (pure a : Reader α) := by
  intro bytes b rest read
  cases read
  exact h

theorem Reads.bind {α β : Type} {P : β → Prop} {r : Reader α} {f : α → Reader β} (h : ∀ a, Reads P (f a)) : Reads P (r >>= f) := by
  intro bytes b rest read
  obtain ⟨⟨a, left⟩, _, later⟩ := Option.bind_eq_some_iff.mp read
  exact h a left b rest later

theorem Reads.ite {α : Type} {P : α → Prop} {c : Prop} [Decidable c] {r q : Reader α} (hr : Reads P r) (hq : Reads P q) :
    Reads P (if c then r else q) := by
  split
  · exact hr
  · exact hq

/-- The request has the kind. -/
def OfKind (n : Nat) (r : Request) : Prop := kindOfRequest r = BitVec.ofNat 8 n

theorem readOne_kind {n : Nat} {f : Nat → Request} (h : ∀ a, OfKind n (f a)) : Reads (OfKind n) (readOne f) :=
  Reads.bind fun a => Reads.value (h a)

theorem readTwo_kind {n : Nat} {f : Nat → Nat → Request} (h : ∀ a b, OfKind n (f a b)) : Reads (OfKind n) (readTwo f) :=
  Reads.bind fun a => Reads.bind fun b => Reads.value (h a b)

theorem readDefineShow_kind : Reads (OfKind 1) readDefineShow := by
  unfold readDefineShow
  repeat refine Reads.bind fun _ => ?_
  exact Reads.value rfl

theorem readAppendCues_kind : Reads (OfKind 2) readAppendCues := Reads.bind fun _ => Reads.bind fun _ => Reads.value rfl

theorem readSetChannel_kind : Reads (OfKind 6) readSetChannel :=
  Reads.bind fun _ => Reads.bind fun _ => Reads.ite (Reads.value rfl)
    (Reads.bind fun _ => Reads.bind fun _ => Reads.bind fun _ => Reads.bind fun _ => Reads.value rfl)

theorem readSetLine_kind : Reads (OfKind 15) readSetLine := by
  unfold readSetLine
  repeat refine Reads.bind fun _ => ?_
  exact Reads.value rfl

theorem readSetRoute_kind : Reads (OfKind 16) readSetRoute := by
  unfold readSetRoute
  repeat refine Reads.bind fun _ => ?_
  exact Reads.value rfl

theorem readDefineSet_kind : Reads (OfKind 18) readDefineSet := Reads.bind fun _ => Reads.bind fun _ => Reads.bind fun _ => Reads.value rfl

theorem readSetGallery_kind : Reads (OfKind 23) readSetGallery := by
  unfold readSetGallery
  repeat refine Reads.bind fun _ => ?_
  exact Reads.value rfl

/-- SET-LAW's reader reads a write, a removal, or a form that is neither. -/
theorem readSetLaw_kind : Reads (fun a => ∀ q, a = .request q → OfKind 24 q) readSetLaw := by
  refine Reads.bind fun _ => Reads.bind fun _ => Reads.ite (Reads.value fun q e => ?_)
    (Reads.bind fun _ => Reads.ite (Reads.value fun q e => ?_) (Reads.value fun q e => ?_))
  · cases e; rfl
  · cases e; rfl
  · cases e

theorem readSetTimebase_kind : Reads (OfKind 26) readSetTimebase := Reads.bind fun _ => Reads.bind fun _ => Reads.value rfl

theorem readSetTime_kind : Reads (OfKind 27) readSetTime := Reads.bind fun _ => Reads.bind fun _ => Reads.value rfl

theorem readSetEntry_kind : Reads (OfKind 29) readSetEntry := by
  unfold readSetEntry
  repeat refine Reads.bind fun _ => ?_
  exact Reads.value rfl

theorem readSetAlarm_kind : Reads (OfKind 35) readSetAlarm := Reads.bind fun _ => Reads.bind fun _ => Reads.value rfl

theorem wholeBody_kind {n : Nat} {r : Reader Request} {body : List Byte} {q : Request}
    (h : some (wholeBody r body) = some (some (.request q))) (reads : Reads (OfKind n) r) : OfKind n q := by
  unfold wholeBody at h
  split at h
  · rename_i read
    cases h
    exact reads _ _ _ read
  · cases h

theorem wholeSetLaw_kind {body : List Byte} {q : Request} (h : some (wholeSetLaw body) = some (some (.request q))) : OfKind 24 q := by
  unfold wholeSetLaw at h
  split at h
  · rename_i read
    cases h
    exact readSetLaw_kind _ _ _ read q rfl
  · cases h

theorem readReadShow_kind {body : List Byte} {q : Request} (h : some (readReadShow body) = some (some (.request q))) : OfKind 4 q := by
  unfold readReadShow at h
  split at h
  · cases h; rfl
  · cases h; rfl
  · cases h

/-- A body of a kind is read as a request of that kind. -/
theorem readBody_kind {n : Nat} {body : List Byte} {q : Request} (h : readBody n body = some (some (.request q))) : OfKind n q := by
  unfold readBody at h
  split at h
  · exact wholeBody_kind h readDefineShow_kind
  · exact wholeBody_kind h readAppendCues_kind
  · exact wholeBody_kind h (readOne_kind fun _ => rfl)
  · exact readReadShow_kind h
  · exact wholeBody_kind h (Reads.value rfl)
  · exact wholeBody_kind h readSetChannel_kind
  · exact wholeBody_kind h (readOne_kind fun _ => rfl)
  · exact wholeBody_kind h (readOne_kind fun _ => rfl)
  · exact wholeBody_kind h (readTwo_kind fun _ _ => rfl)
  · exact wholeBody_kind h (readOne_kind fun _ => rfl)
  · exact wholeBody_kind h (readOne_kind fun _ => rfl)
  · exact wholeBody_kind h (readOne_kind fun _ => rfl)
  · exact wholeBody_kind h (readTwo_kind fun _ _ => rfl)
  · exact wholeBody_kind h (Reads.value rfl)
  · exact wholeBody_kind h readSetLine_kind
  · exact wholeBody_kind h readSetRoute_kind
  · exact wholeBody_kind h (Reads.bind fun _ => Reads.value rfl)
  · exact wholeBody_kind h readDefineSet_kind
  · exact wholeBody_kind h (readOne_kind fun _ => rfl)
  · exact wholeBody_kind h (readTwo_kind fun _ _ => rfl)
  · exact wholeBody_kind h (Reads.bind fun _ => Reads.value rfl)
  · exact wholeBody_kind h (readOne_kind fun _ => rfl)
  · exact wholeBody_kind h readSetGallery_kind
  · exact wholeSetLaw_kind h
  · exact wholeBody_kind h (readOne_kind fun _ => rfl)
  · exact wholeBody_kind h readSetTimebase_kind
  · exact wholeBody_kind h readSetTime_kind
  · exact wholeBody_kind h (Reads.value rfl)
  · exact wholeBody_kind h readSetEntry_kind
  · exact wholeBody_kind h (readOne_kind fun _ => rfl)
  · exact wholeBody_kind h (Reads.bind fun _ => Reads.value rfl)
  · exact wholeBody_kind h (Reads.value rfl)
  · exact wholeBody_kind h (Reads.value rfl)
  · exact wholeBody_kind h (Reads.value rfl)
  · exact wholeBody_kind h readSetAlarm_kind
  · exact wholeBody_kind h (Reads.value rfl)
  · exact wholeBody_kind h (Reads.value rfl)
  · exact wholeBody_kind h (Reads.value rfl)
  · cases h

theorem kindOfRequest_of_read {kind : Byte} {body : List Byte} {r : Request} (h : readRequest kind body = .request r) : kindOfRequest r = kind := by
  unfold readRequest at h
  split at h
  · cases h
  · cases h
  · rename_i read
    subst h
    exact (readBody_kind read).trans (BitVec.ofNat_toNat 8 kind)

/-! ### The assembler (R173) -/

section
variable {p : Blocks} {b : Byte}

theorem receiveByte_hunting_other (h : p.link.assembler = .hunting) (other : b ≠ 0xA5) : receiveByte b p = p := by
  rw [receiveByte, h]
  exact if_neg other

theorem receiveByte_hunting_start (h : p.link.assembler = .hunting) :
    receiveByte 0xA5 p = { p with link := { p.link with assembler := .length } } := by
  rw [receiveByte, h]
  rfl

theorem receiveByte_length (h : p.link.assembler = .length) (low : 2 ≤ b.toNat) (high : b.toNat ≤ 252) :
    receiveByte b p = { p with link := { p.link with assembler := .body b.toNat [] } } := by
  rw [receiveByte, h]
  exact if_pos ⟨low, high⟩

theorem receiveByte_length_bad (h : p.link.assembler = .length) (bad : b.toNat < 2 ∨ 252 < b.toNat) :
    receiveByte b p = rejectFrame .length (setAssembler .hunting p) := by
  rw [receiveByte, h]
  exact if_neg (by omega)

theorem receiveByte_body {len : Nat} {got : List Byte} (h : p.link.assembler = .body len got) (short : got.length + 1 < len + 2) :
    receiveByte b p = { p with link := { p.link with assembler := .body len (got ++ [b]) } } := by
  rw [receiveByte, h]
  exact if_pos (by rw [List.length_append]; exact short)

/-- The byte that completes a frame: its tag, kind, body and check value are all there. -/
theorem receiveByte_last {got body check : List Byte} {tag kind : Byte} (h : p.link.assembler = .body (body.length + 2) got)
    (checked : check.length = 2) (whole : got ++ [b] = tag :: kind :: body ++ check) :
    receiveByte b p =
      if check = crcBytes (BitVec.ofNat 8 (body.length + 2) :: tag :: kind :: body) then
        arrive { tag := tag, kind := kind, content := readRequest kind body } (setAssembler .hunting p)
      else rejectFrame .check (setAssembler .hunting p) := by
  have full : ¬ (got ++ [b]).length < body.length + 2 + 2 := by
    rw [whole]
    simp only [List.length_append, List.length_cons, checked]
    omega
  have front : (got ++ [b]).take (body.length + 2) = tag :: kind :: body := by
    rw [whole]; exact List.take_left' rfl
  have back : (got ++ [b]).drop (body.length + 2) = check := by
    rw [whole]; exact List.drop_left' rfl
  rw [receiveByte, h]
  simp only [if_neg full, completeFrame, front, back]

theorem rejectFrame_of_lt (cause : FrameCause) (room : p.link.replies.length < 8) : rejectFrame cause p = putReply (.frameReject cause) p :=
  if_neg (Nat.not_le.mpr room)

theorem rejectFrame_of_ge (cause : FrameCause) (full : 8 ≤ p.link.replies.length) : rejectFrame cause p = overrunNow p := if_pos full

theorem frameGap_hunting (h : p.link.assembler = .hunting) : frameGap p = p := by rw [frameGap, h]

theorem frameGap_within (h : p.link.assembler ≠ .hunting) : frameGap p = rejectFrame .gap (setAssembler .hunting p) := by
  unfold frameGap
  split
  · rename_i hunting; exact absurd hunting h
  · rfl
  · rfl

end

theorem exec_receiveByte (b : Byte) (s : State) : exec (.receiveByte b) s = becomes s (finish (receiveByte b s.part)) := rfl

theorem exec_frameGap (s : State) : exec .frameGap s = becomes s (finish (frameGap s.part)) := rfl

theorem crcBytes_length (bytes : List Byte) : (crcBytes bytes).length = 2 := rfl

/-- A frame that is rejected: a FRAME-REJECT, or the overrun flag (R173, R176). -/
theorem becomes_rejected {s : State} {f : Blocks → Blocks} {cause : FrameCause} (h : f s.part = rejectFrame cause (setAssembler .hunting s.part)) :
    (s.part.link.replies.length < 8 → becomes s (finish (f s.part)) = becomes s (finish { s.part with link := { s.part.link with
      assembler := .hunting, replies := s.part.link.replies ++ [.frameReject cause] } })) ∧
    (8 ≤ s.part.link.replies.length → becomes s (finish (f s.part)) = becomes s (finish { s.part with link := { s.part.link with
      assembler := .hunting, overrun := true } })) := by
  refine ⟨fun room => ?_, fun full => ?_⟩
  · rw [h, rejectFrame_of_lt (p := setAssembler .hunting s.part) cause room]
    rfl
  · rw [h, rejectFrame_of_ge (p := setAssembler .hunting s.part) cause full]
    rfl

/-- A whole frame with its right check value arrives as what its body holds (R173, R174). -/
theorem exec_receiveByte_frame {s : State} {b : Byte} {got body : List Byte} {tag kind : Byte}
    (h : s.part.link.assembler = .body (body.length + 2) got)
    (whole : got ++ [b] = tag :: kind :: body ++ crcBytes (BitVec.ofNat 8 (body.length + 2) :: tag :: kind :: body)) :
    exec (.receiveByte b) s =
      becomes s (finish (arrive { tag := tag, kind := kind, content := readRequest kind body } (setAssembler .hunting s.part))) := by
  rw [exec_receiveByte, receiveByte_last h (crcBytes_length _) whole, if_pos rfl]

theorem finish_joined {p : Blocks} (x : Queued) (ready : Ready p) : finish (joinQueue x p) = transmit (takeQueued x p) := by
  unfold finish refill
  rw [serve_joined ready, takeQueued_requests x ready.empty]
  rfl

/-- The arrival of a frame, by the place it finds in the queue and by what it holds (R174, R176). -/
theorem arrive_by_content (x : Queued) {p joined : Blocks}
    (joins : p.link.requests.length < 4 → joined = { p with link := { p.link with requests := p.link.requests ++ [x] } })
    (busy : 4 ≤ p.link.requests.length → joined = putReply (.refused x.tag x.kind .busy) p) : joinQueue x p = joined := by
  rcases Nat.lt_or_ge p.link.requests.length 4 with few | many
  · rw [joinQueue_of_lt x few, joins few]
  · rw [joinQueue_of_ge x many, busy many]

/-- Settles O7: the assembler by its state, the frame by its check value, and the arrival by what the frame holds. -/
theorem theAssemblerTakesBytes : Obligations.TheAssemblerTakesBytes := by
  refine ⟨fun s b => ⟨fun hunting other => ?_, fun hunting => ?_, fun length low high => ?_, fun length bad => ?_, fun length bad => ?_,
    fun len got within short => ?_, fun got tag kind body within whole => ?_, fun got tag kind body check within checked whole wrong => ?_,
    fun hunting => ?_, fun within => ?_, fun within => ?_⟩, fun x p joined joins busy => ?_,
    fun c tag r s arrival => exec_arrival arrival s⟩
  · rw [exec_receiveByte, receiveByte_hunting_other hunting other]
  · rw [exec_receiveByte, receiveByte_hunting_start hunting]
  · rw [exec_receiveByte, receiveByte_length length low high]
  · exact (becomes_rejected (receiveByte_length_bad length bad)).1
  · exact (becomes_rejected (receiveByte_length_bad length bad)).2
  · rw [exec_receiveByte, receiveByte_body within short]
  · have arrives := exec_receiveByte_frame within whole
    refine ⟨_, rfl, arrives, fun c r read arrival => ?_, fun read loaded room => ?_, fun read loaded room => ?_, fun read ready => ?_⟩
    · rw [arrives, exec_arrival arrival, read, ← kindOfRequest_of_read read]
      rfl
    · rw [arrives, arrive_of_loaded (p := setAssembler .hunting s.part) _ room loaded, checkFrame_unknownKind _ _ read,
        takeQueued_unknownKind _ _ read]
      rfl
    · rw [arrives, arrive_of_loaded (p := setAssembler .hunting s.part) _ room loaded, checkFrame_badLength _ _ read,
        takeQueued_badLength _ _ read]
      rfl
    · have ready' : Ready (setAssembler .hunting s.part) := ⟨ready.loaded, ready.free, ready.empty, ready.room⟩
      rw [arrives, arrive_of_loaded _ ready'.room ready'.loaded, checkFrame_badForm _ _ read, finish_joined _ ready', takeQueued_badForm _ _ read]
      rfl
  · have rejected := becomes_rejected (f := receiveByte b) ((receiveByte_last within checked whole).trans (if_neg wrong))
    exact ⟨rejected.1, rejected.2⟩
  · rw [exec_frameGap, frameGap_hunting hunting]
  · exact (becomes_rejected (frameGap_within within)).1
  · exact (becomes_rejected (frameGap_within within)).2
  · have place := arrive_by_content x joins busy
    refine ⟨arrive_of_full x, fun room loading => (arrive_of_loading x room loading).trans place, fun room loaded => ?_⟩
    rw [arrive_of_loaded x room loaded]
    refine ⟨fun unknown => ?_, fun long => ?_, fun form => (checkFrame_badForm x p form).trans place, fun r asks => ⟨fun immediate => ?_, ?_⟩⟩
    · rw [checkFrame_unknownKind x p unknown, takeQueued_unknownKind x p unknown]
    · rw [checkFrame_badLength x p long, takeQueued_badLength x p long]
    · exact checkFrame_immediate x p asks ((requestImmediate_iff r).mpr immediate)
    · exact fun status stop ack reset => (checkFrame_waits x p asks (requestImmediate_false status stop ack reset)).trans place

end Sys2Proof.Machine

/-! SUPPORT. The end of a load: the newer image, and the POLLs that follow it. A POLL is refused by no absence, displaces nothing and reports no loss, so offering it changes the bus alone (R15, R18, R91, R92, R109). -/

namespace Sys2Proof.Machine

/-! ### POLLs -/

theorem below_ambient (c : ShowClass) : c.below .ambient = false := decide_eq_false (Nat.not_lt_zero _)

/-- A POLL that finds the queue full is dropped without a report. -/
theorem enterQueue_poll (n : Nat) (p : Blocks) :
    enterQueue (pollTx n) p = if p.bus.queue.length < 64 then { p with bus := { p.bus with queue := insertTx (pollTx n) p.bus.queue } } else p := by
  unfold enterQueue
  split
  · rfl
  · cases lowestClass p.bus.queue with
    | none => rfl
    | some c => exact if_neg (Bool.eq_false_iff.mp (below_ambient c))

theorem offer_poll (n : Nat) (p : Blocks) : offer (pollTx n) p = takeHead (enterQueue (pollTx n) p) := rfl

/-- Offering a POLL changes the bus alone. -/
theorem offer_poll_bus (n : Nat) (p : Blocks) : ∃ b, offer (pollTx n) p = { p with bus := b } := by
  have entered : ∃ b, enterQueue (pollTx n) p = { p with bus := b } := by
    rw [enterQueue_poll]
    split
    · exact ⟨_, rfl⟩
    · exact ⟨p.bus, rfl⟩
  obtain ⟨b, entered⟩ := entered
  rw [offer_poll, entered]
  rcases takeHead_cases { p with bus := b } with stays | ⟨q, j, moves, _⟩
  · exact ⟨b, stays⟩
  · exact ⟨_, moves⟩

theorem offers_bus (ns : List Nat) (p : Blocks) : ∃ b, (ns.map pollTx).foldl (fun q t => offer t q) p = { p with bus := b } := by
  induction ns generalizing p with
  | nil => exact ⟨p.bus, rfl⟩
  | cons n ns ih =>
    obtain ⟨b, first⟩ := offer_poll_bus n p
    obtain ⟨b', later⟩ := ih { p with bus := b }
    exact ⟨b', by rw [List.map_cons, List.foldl_cons, first]; exact later⟩

/-- The POLLs of a list of nodes are those of its referenced nodes, as the settings stand before the first. -/
theorem polls_filter (ns : List Nat) (p : Blocks) :
    ns.foldl (fun q n => if nodeReferenced q.store.settings n then offer (pollTx n) q else q) p =
      ((ns.filter (nodeReferenced p.store.settings)).map pollTx).foldl (fun q t => offer t q) p := by
  induction ns generalizing p with
  | nil => rfl
  | cons n ns ih =>
    rw [List.foldl_cons, List.filter_cons]
    split
    · obtain ⟨b, first⟩ := offer_poll_bus n p
      rw [List.map_cons, List.foldl_cons, first]
      exact ih { p with bus := b }
    · exact ih p

theorem nodeNumbers_filter (f : Nat → Bool) : nodeNumbers.filter f = (List.range 33).filter (fun m => decide (1 ≤ m) && f m) := by
  rw [show List.range 33 = 0 :: nodeNumbers from List.range_succ_eq_map, List.filter_cons]
  refine (List.filter_congr fun m held => ?_)
  obtain ⟨i, _, rfl⟩ := List.mem_map.mp held
  simp

/-- The POLLs of a reset, in ascending order of their nodes (R109). -/
theorem pollReferenced_eq (p : Blocks) :
    pollReferenced p = (((List.range 33).filter (fun m => 1 ≤ m ∧ nodeReferenced p.store.settings m)).map pollTx).foldl (fun q t => offer t q) p := by
  unfold pollReferenced
  rw [polls_filter, nodeNumbers_filter]
  congr 3
  funext m
  simp

/-- A POLL goes behind what is of its own class. -/
theorem insertTx_last {t : Transaction} {q : List Transaction} (h : ∀ x ∈ q, x.cls.below t.cls = false) : insertTx t q = q ++ [t] := by
  induction q with
  | nil => rfl
  | cons x xs ih =>
    rw [insertTx, h x List.mem_cons_self, ih fun y held => h y (List.mem_cons_of_mem x held)]
    rfl

theorem takeHead_busy {p : Blocks} {j : BusJob} (h : p.bus.job = some j) : takeHead p = p := by
  unfold takeHead
  rw [h]

/-- On a busy bus, POLLs for which there is room stand in the queue in their order. -/
theorem offers_queue {ns : List Nat} {p : Blocks} {j : BusJob} {q : List Transaction} (busy : p.bus.job = some j) (queue : p.bus.queue = q)
    (room : q.length + ns.length ≤ 64) :
    (ns.map pollTx).foldl (fun b t => offer t b) p = { p with bus := { p.bus with queue := q ++ ns.map pollTx } } := by
  induction ns generalizing p q with
  | nil =>
    subst queue
    rw [List.map_nil, List.append_nil]
    rfl
  | cons n ns ih =>
    subst queue
    rw [List.length_cons] at room
    have short : p.bus.queue.length < 64 := by omega
    have first : offer (pollTx n) p = { p with bus := { p.bus with queue := p.bus.queue ++ [pollTx n] } } := by
      rw [offer_poll, enterQueue_poll, if_pos short, insertTx_last fun x _ => below_ambient x.cls]
      exact takeHead_busy busy
    rw [List.map_cons, List.foldl_cons, first,
      ih (p := { p with bus := { p.bus with queue := p.bus.queue ++ [pollTx n] } }) busy rfl
        (by rw [List.length_append, List.length_singleton]; omega),
      List.append_assoc]
    rfl

/-- On a free bus with nothing queued, the first POLL goes to the bus and the others wait. -/
theorem offers_free {n : Nat} {ns : List Nat} {p : Blocks} (loaded : p.store.loading = false) (free : p.bus.job = none) (empty : p.bus.queue = [])
    (room : ns.length ≤ 64) :
    ((n :: ns).map pollTx).foldl (fun b t => offer t b) p = { p with bus := { p.bus with
      queue := ns.map pollTx
      job := some { tx := { pollTx n with toggle := some (nodeRecord p n).toggle, attempts := 1 }, timeout := p.store.settings.replyTimeout,
                    retries := p.store.settings.retryCount } } } := by
  have first : offer (pollTx n) p = { p with bus := { p.bus with
      queue := []
      job := some { tx := { pollTx n with toggle := some (nodeRecord p n).toggle, attempts := 1 }, timeout := p.store.settings.replyTimeout,
                    retries := p.store.settings.retryCount } } } := by
    rw [offer_poll, enterQueue_poll, if_pos (by rw [empty]; exact Nat.zero_lt_succ 63), empty]
    unfold takeHead
    simp only [free, loaded, insertTx]
    rfl
  rw [List.map_cons, List.foldl_cons, first, offers_queue rfl rfl (by rw [List.length_nil]; omega)]
  rfl

/-! ### The newer image (R15) -/

theorem newerIsA_true {a b : Nat} (h : a = (b + 1) % 65536 ∨ b ≠ (a + 1) % 65536 ∧ b ≤ a) : newerIsA a b = true := by
  unfold newerIsA
  rcases h with next | ⟨notNext, older⟩
  · exact if_pos next
  · rw [if_neg notNext]
    split
    · rfl
    · exact decide_eq_true older

theorem newerIsA_false {a b : Nat} (notNext : a ≠ (b + 1) % 65536) (h : b = (a + 1) % 65536 ∨ a < b) :
    newerIsA a b = false := by
  unfold newerIsA
  rw [if_neg notNext]
  split
  · rfl
  · rename_i other
    exact decide_eq_false (by omega)

section
variable {c : CueStore} {i : Image}

theorem loadArea_none (ha : c.areaA = none) (hb : c.areaB = none) : loadArea c = none := by rw [loadArea, ha, hb]

theorem loadArea_a (ha : c.areaA = some i)
    (h : c.areaB = none ∨ ∃ old, c.areaB = some old ∧ newerIsA i.generation old.generation = true) : loadArea c = some .a := by
  rcases h with hb | ⟨old, hb, newer⟩
  · rw [loadArea, ha, hb]
  · rw [loadArea, ha, hb]
    exact if_pos newer

theorem loadArea_b (hb : c.areaB = some i)
    (h : c.areaA = none ∨ ∃ old, c.areaA = some old ∧ newerIsA old.generation i.generation = false) : loadArea c = some .b := by
  rcases h with ha | ⟨old, ha, older⟩
  · rw [loadArea, ha, hb]
  · rw [loadArea, ha, hb]
    exact if_neg (Bool.eq_false_iff.mp older)

theorem loadedImage_a (ha : c.areaA = some i) (h : loadArea c = some .a) : loadedImage c = some i := by rw [loadedImage, h]; exact ha

theorem loadedImage_b (hb : c.areaB = some i) (h : loadArea c = some .b) : loadedImage c = some i := by rw [loadedImage, h]; exact hb

theorem loadedImage_none (h : loadArea c = none) : loadedImage c = none := by rw [loadedImage, h]

theorem loadedSettings_of {im : Option Image} (h : loadedImage c = im) : loadedSettings c = (im.map Image.settings).getD Settings.initial := by
  rw [loadedSettings, h]

end

/-! ### The end of the load -/

theorem afresh_eq (source : TimeSource) (u : TimeUnit) :
    u.afresh source = { u with state := if source = .internal then .internal else .syncLost, goodCount := 0, lastPulse := none, grid := none } := by
  cases source with
  | internal => rfl
  | sync => rfl

theorem exec_settingsLoadEnd (s : State) : exec .settingsLoadEnd s = becomes s (finish (endLoad s.part)) := rfl

/-- A load's end changes the bus beside what `loadedPart` and the notice say. -/
theorem endLoad_bus {p : Blocks} (h : p.store.loading = true) :
    ∃ b, endLoad p = { putNotice (loadNotice (loadedImage p.store)) (loadedPart p) with bus := b } := by
  rw [endLoad_loading h, pollReferenced_eq]
  exact offers_bus _ _

/-- A request that waited alone through a load is taken at its end as one that arrives then (R18, R174, R175). -/
theorem waited_taken {s : State} {q : Blocks} {c : Instr} {tag : Byte} {r : Request} (arrival : arrivalOf c = some (tag, r))
    (waits : q.link.requests = [{ tag := tag, kind := kindOfRequest r, content := .request r }])
    (loaded : q.store.loading = false) (free : q.store.save = none) (room : q.link.replies.length < 8) :
    becomes s (finish q) = exec c { s with part := { q with link := { q.link with requests := [] } } } := by
  have ready : Ready { q with link := { q.link with requests := [] } } := ⟨loaded, free, rfl, room⟩
  rw [exec_ready arrival ready, finish_takes waits (mayTake_of loaded free room)]
  rfl

section
variable {c : CueStore} {i : Image}

/-- The newer image stands in area A (R15). -/
theorem loadArea_newer_a (h : c.areaA = some i ∧ c.areaB = none ∨
      ∃ old, c.areaA = some i ∧ c.areaB = some old ∧ i.generation < 65536 ∧ old.generation < 65536 ∧
        (i.generation = (old.generation + 1) % 65536 ∨ old.generation ≠ (i.generation + 1) % 65536 ∧ old.generation ≤ i.generation)) :
    loadedImage c = some i ∧ loadArea c = some .a := by
  rcases h with ⟨held, blank⟩ | ⟨old, held, other, _, _, newer⟩
  · have area := loadArea_a held (Or.inl blank)
    exact ⟨loadedImage_a held area, area⟩
  · have area := loadArea_a held (Or.inr ⟨old, other, newerIsA_true newer⟩)
    exact ⟨loadedImage_a held area, area⟩

/-- The newer image stands in area B (R15). -/
theorem loadArea_newer_b (h : c.areaA = none ∧ c.areaB = some i ∨
      ∃ old, c.areaB = some i ∧ c.areaA = some old ∧ i.generation < 65536 ∧ old.generation < 65536 ∧
        (old.generation ≠ (i.generation + 1) % 65536 ∧ (i.generation = (old.generation + 1) % 65536 ∨ old.generation < i.generation))) :
    loadedImage c = some i ∧ loadArea c = some .b := by
  rcases h with ⟨blank, held⟩ | ⟨old, held, other, _, _, notNext, newer⟩
  · have area := loadArea_b held (Or.inl blank)
    exact ⟨loadedImage_b held area, area⟩
  · have area := loadArea_b held (Or.inr ⟨old, other, newerIsA_false notNext newer⟩)
    exact ⟨loadedImage_b held area, area⟩

end

/-- The part as the store's notice has been put and no POLL offered yet. -/
def noticedLoad (p : Blocks) : Blocks := putNotice (loadNotice (loadedImage p.store)) (loadedPart p)

/-- The nodes to poll: those that the loaded settings reference, in ascending order. -/
def loadPolls (p : Blocks) : List Nat := (List.range 33).filter (fun m => 1 ≤ m ∧ nodeReferenced (loadedSettings p.store) m)

theorem loadPolls_length (p : Blocks) : (loadPolls p).length ≤ 33 := (List.length_filter_le _ _).trans_eq List.length_range

theorem noticedLoad_eq (p : Blocks) : noticedLoad p = putNotice (loadNotice (loadedImage p.store)) { p with
    store := { p.store with settings := loadedSettings p.store, note := loadArea p.store, loading := false }
    time := { p.time with
      state := if (loadedSettings p.store).source = .internal then .internal else .syncLost
      goodCount := 0, lastPulse := none, grid := none } } := by
  rw [noticedLoad, loadedPart, afresh_eq]

theorem endLoad_polls {p : Blocks} (h : p.store.loading = true) :
    endLoad p = ((loadPolls p).map pollTx).foldl (fun q t => offer t q) (noticedLoad p) := by
  rw [endLoad_loading h, pollReferenced_eq, putNotice_store]
  rfl

/-- On a bus as a load begins with, the first POLL goes to the bus and the others stand in the queue (R94, R109). -/
theorem endLoad_free {p : Blocks} (h : p.store.loading = true) (free : p.bus.job = none) (empty : p.bus.queue = []) {t : Transaction}
    {ts : List Transaction} (first : (loadPolls p).map pollTx = t :: ts) :
    endLoad p = { noticedLoad p with bus := { (noticedLoad p).bus with
      queue := ts
      job := some { tx := { t with toggle := some (nodeRecord p t.node).toggle, attempts := 1 }
                    timeout := (loadedSettings p.store).replyTimeout, retries := (loadedSettings p.store).retryCount } } } := by
  have short := loadPolls_length p
  have bus : (noticedLoad p).bus = p.bus := putNotice_bus _ _
  have store : (noticedLoad p).store = (loadedPart p).store := putNotice_store _ _
  obtain ⟨n, ns, polls, rfl, rfl⟩ := List.map_eq_cons_iff.mp first
  rw [polls, List.length_cons] at short
  have toggle : nodeRecord (noticedLoad p) n = nodeRecord p n := by unfold nodeRecord; rw [bus]
  have settings : (noticedLoad p).store.settings = loadedSettings p.store := by rw [store]; rfl
  rw [endLoad_polls h, polls, offers_free (by rw [store]; rfl) (by rw [bus]; exact free) (by rw [bus]; exact empty) (by omega), toggle, settings]
  rfl

/-- Settles O5. The settings, note and notice are the loaded image's; the polls are offered to a bus that a load begins with free; and the event's end takes what waited. -/
theorem aLoadEndsWithTheNewerImage : Obligations.ALoadEndsWithTheNewerImage := by
  intro s loading
  obtain ⟨b, ended⟩ := endLoad_bus loading
  have link : (endLoad s.part).link = (noticedLoad s.part).link := by rw [ended]; rfl
  have store : (endLoad s.part).store = (loadedPart s.part).store := (endLoad_frame loading).store
  have requests : (endLoad s.part).link.requests = s.part.link.requests := by rw [link]; exact putNotice_requests _ _
  have replies : (endLoad s.part).link.replies = s.part.link.replies := by rw [link]; exact putNotice_replies _ _
  refine ⟨loadedImage s.part.store, loadedSettings s.part.store, loadArea s.part.store, loadNotice (loadedImage s.part.store), _,
    noticedLoad s.part, endLoad s.part, fun noneA noneB => ?_, fun i => loadArea_newer_a, fun i => loadArea_newer_b, fun none => ?_,
    fun i some => ?_, noticedLoad_eq s.part, rfl, endLoad_polls loading, fun free empty => ⟨fun noPolls => ?_, fun t ts first => ?_⟩, rfl,
    fun empty => ?_, fun c tag r alone arrival waits free few only => ?_, fun silent unnoticed idle empty => ?_⟩
  · exact ⟨loadedImage_none (loadArea_none noneA noneB), loadArea_none noneA noneB⟩
  · rw [loadedSettings_of none, none]; exact ⟨rfl, rfl⟩
  · rw [loadedSettings_of some, some]; exact ⟨rfl, rfl⟩
  · rw [endLoad_polls loading]
    exact congrArg (List.foldl _ _) noPolls
  · exact endLoad_free loading free empty first
  · rw [exec_settingsLoadEnd, finish_empty (requests.trans empty)]
  · subst only
    refine waited_taken arrival (requests.trans waits) ?_ ?_ ?_
    · rw [store]; rfl
    · rw [store]; exact free
    · rw [replies]; exact few
  · have put := putNotice_of_lt (loadNotice (loadedImage s.part.store)) (p := loadedPart s.part)
      (by rw [show (loadedPart s.part).link.notices = [] from unnoticed]; exact Nat.zero_lt_succ 31)
    have notices : (endLoad s.part).link.notices = [loadNotice (loadedImage s.part.store)] := by
      rw [link, noticedLoad, put]
      exact congrArg (· ++ _) unnoticed
    have lost : (endLoad s.part).link.lost = s.part.link.lost := by rw [link, noticedLoad, put]; rfl
    have still : (endLoad s.part).link.transmitting = none := (endLoad_transmitting s.part).trans idle
    rw [transmit_notice still (replies.trans silent) notices, lost]
    exact ⟨_, rfl⟩

end Sys2Proof.Machine

/-! SUPPORT. What the operands of a request come to: a name's code is read back as the name, a code beyond its list as nothing, and a number in its range as itself (R183). -/

namespace Sys2Proof.Machine

/-! ### Names and numbers -/

theorem pick_none {α : Type} {names : List α} {n : Nat} (h : names.length ≤ n) : pick names n = none := List.getElem?_eq_none h

theorem pick_lt {α : Type} {names : List α} {n : Nat} {x : α} (h : pick names n = some x) : n < names.length := by
  obtain ⟨lt, _⟩ := List.getElem?_eq_some_iff.mp h
  exact lt

theorem yesNo_toNat (b : Bool) : yesNo b.toNat = some b := by
  cases b with
  | false => rfl
  | true => rfl

theorem yesNo_none {n : Nat} (h : 1 < n) : yesNo n = none := pick_none h

theorem classOf_code (c : ShowClass) : classOf (codeOf [.ambient, .feature, .notice, .override] c) = some c := by cases c <;> rfl

theorem preemptOf_code (c : PreemptPolicy) : preemptOf (codeOf [.resume, .restart, .yield] c) = some c := by cases c <;> rfl

theorem conflictOf_code (c : ConflictPolicy) : conflictOf (codeOf [.wait, .refuse] c) = some c := by cases c <;> rfl

theorem primeModeOf_code (c : PrimeMode) : primeModeOf (codeOf [.strict, .lenient] c) = some c := by cases c <;> rfl

theorem kindOf_code (c : ChannelKind) : kindOf (codeOf [.video, .audio, .light, .effect] c) = some c := by cases c <;> rfl

theorem within_eq_some {low high n m : Nat} : within low high n = some m ↔ (low ≤ n ∧ n ≤ high) ∧ n = m := by
  unfold within
  split
  · rename_i h; simp [h]
  · rename_i h; simp [h]

theorem optWithin_asField {high : Nat} {o o' : Option Nat} :
    optWithin high (asField o) = some o' ↔ (∀ v, o = some v → v ≤ high) ∧ o = o' := by
  cases o with
  | none => simp [asField, optWithin]
  | some v =>
    by_cases h : v ≤ high
    · simp [asField, optWithin, h]
    · simp [asField, optWithin, h]

end Sys2Proof.Machine

/-! SUPPORT. The requests that edit the store: when each request's own rule accepts it, and what its command answers (R2, R3, R6 to R12). -/

namespace Sys2Proof.Machine

/-! ### The header of a DEFINE-SHOW (R2, R6, R7) -/

theorem labelOk_iff (label : List Nat) : labelOk label = true ↔ label.length ≤ 12 ∧ ∀ b ∈ label, 32 ≤ b ∧ b ≤ 126 := by
  simp [labelOk]

theorem channelListOk_iff (p : Blocks) (channels : List Nat) :
    channelListOk p.store.settings channels = true ↔
      1 ≤ channels.length ∧ channels.length ≤ 24 ∧ channels.Nodup ∧ ∀ ch ∈ channels, channelEntry p ch ≠ none := by
  simp only [channelListOk, Bool.and_eq_true, decide_eq_true_iff, List.all_eq_true, Option.isSome_iff_ne_none, and_assoc]
  rfl

theorem combinationsOk_iff (h : ShowHeader) :
    combinationsOk h = true ↔ (h.autostart = true ∨ h.keepClosed = true → h.cls = .ambient) ∧ (h.tied = true → h.leader ≠ none) := by
  unfold combinationsOk
  cases h.autostart <;> cases h.keepClosed <;> cases h.tied <;> simp [Option.isSome_iff_ne_none]

/-- The ranges of R2 and the combinations of R6. -/
def headerInRange (p : Blocks) (h : ShowHeader) : Prop :=
  (1 ≤ h.length ∧ h.length ≤ 720000) ∧ h.plays ≤ 255 ∧ (1 ≤ h.primeTimeout ∧ h.primeTimeout ≤ 100) ∧ h.rest ≤ 3600 ∧
    (∀ l, h.leader = some l → l ≤ 63) ∧ labelOk h.label = true ∧ channelListOk p.store.settings h.channels = true ∧ combinationsOk h = true

/-- A header is read back from the request that carries it exactly where it is in range. -/
theorem headerOf_request (p : Blocks) (id : Nat) (h h' : ShowHeader) :
    headerOf p.store.settings (h.request id) = some h' ↔ headerInRange p h ∧ h = h' := by
  unfold headerOf ShowHeader.request headerInRange
  simp only [classOf_code, preemptOf_code, conflictOf_code, primeModeOf_code, yesNo_toNat, Option.bind_eq_bind, Option.bind_some,
    Option.bind_eq_some_iff, within_eq_some, optWithin_asField, Option.ite_none_right_eq_some, Option.some.injEq, Bool.and_eq_true]
  constructor
  · rintro ⟨_, ⟨length, rfl⟩, _, ⟨⟨_, plays⟩, rfl⟩, _, ⟨timeout, rfl⟩, _, ⟨⟨_, rest⟩, rfl⟩, _, ⟨leader, rfl⟩, ⟨⟨label, channels⟩, combined⟩, rfl⟩
    exact ⟨⟨length, plays, timeout, rest, leader, label, channels, combined⟩, rfl⟩
  · rintro ⟨⟨length, plays, timeout, rest, leader, label, channels, combined⟩, rfl⟩
    exact ⟨_, ⟨length, rfl⟩, _, ⟨⟨Nat.zero_le _, plays⟩, rfl⟩, _, ⟨timeout, rfl⟩, _, ⟨⟨Nat.zero_le _, rest⟩, rfl⟩, _, ⟨leader, rfl⟩,
      ⟨⟨label, channels⟩, combined⟩, rfl⟩

/-- A request whose codes are in their lists (R183). -/
theorem headerOf_codes {st : Settings} {r : DefineShowReq} {h : ShowHeader} (read : headerOf st r = some h) :
    r.cls ≤ 3 ∧ r.preempt ≤ 2 ∧ r.conflict ≤ 1 ∧ r.primeMode ≤ 1 ∧ r.tied ≤ 1 ∧ r.autostart ≤ 1 ∧ r.keepClosed ≤ 1 ∧ r.leader ≠ .malformed := by
  unfold headerOf at read
  obtain ⟨_, cls, read⟩ := Option.bind_eq_some_iff.mp read
  obtain ⟨_, _, read⟩ := Option.bind_eq_some_iff.mp read
  obtain ⟨_, _, read⟩ := Option.bind_eq_some_iff.mp read
  obtain ⟨_, preempt, read⟩ := Option.bind_eq_some_iff.mp read
  obtain ⟨_, conflict, read⟩ := Option.bind_eq_some_iff.mp read
  obtain ⟨_, primeMode, read⟩ := Option.bind_eq_some_iff.mp read
  obtain ⟨_, _, read⟩ := Option.bind_eq_some_iff.mp read
  obtain ⟨_, _, read⟩ := Option.bind_eq_some_iff.mp read
  obtain ⟨_, leader, read⟩ := Option.bind_eq_some_iff.mp read
  obtain ⟨_, tied, read⟩ := Option.bind_eq_some_iff.mp read
  obtain ⟨_, autostart, read⟩ := Option.bind_eq_some_iff.mp read
  obtain ⟨_, keepClosed, read⟩ := Option.bind_eq_some_iff.mp read
  refine ⟨Nat.le_of_lt_succ (pick_lt cls), Nat.le_of_lt_succ (pick_lt preempt), Nat.le_of_lt_succ (pick_lt conflict),
    Nat.le_of_lt_succ (pick_lt primeMode), Nat.le_of_lt_succ (pick_lt tied), Nat.le_of_lt_succ (pick_lt autostart),
    Nat.le_of_lt_succ (pick_lt keepClosed), fun malformed => ?_⟩
  rw [malformed] at leader
  cases leader

theorem mem_followersOf {p : Blocks} {f id : Nat} : f ∈ followersOf p.store.settings id ↔ ∃ sh, showOf p f = some sh ∧ sh.leader = some id := by
  unfold followersOf
  rw [List.mem_filter, List.mem_range]
  refine ⟨fun ⟨_, leads⟩ => ?_, fun ⟨sh, stored, leads⟩ => ⟨showOf_lt stored, ?_⟩⟩
  · cases stored : showOf p f with
    | none => rw [showOf] at stored; simp only [stored, Bool.false_eq_true] at leads
    | some sh =>
      rw [showOf] at stored
      simp only [stored, decide_eq_true_iff] at leads
      exact ⟨sh, rfl, leads⟩
  · rw [showOf] at stored
    simp only [stored, decide_eq_true_iff]
    exact leads

theorem isLeader_iff (p : Blocks) (id : Nat) :
    isLeader p.store.settings id = true ↔ ∃ f sh, showOf p f = some sh ∧ sh.leader = some id := by
  unfold isLeader
  rw [Bool.not_eq_true', List.isEmpty_eq_false_iff_exists_mem]
  exact exists_congr fun f => mem_followersOf

theorem isLeader_false_iff (p : Blocks) (id : Nat) :
    isLeader p.store.settings id = false ↔ ∀ f sh, showOf p f = some sh → sh.leader ≠ some id := by
  rw [← Bool.not_eq_true, isLeader_iff]
  push Not
  rfl

theorem leaderOk_iff (p : Blocks) (id : Nat) (cls : ShowClass) (l : Nat) :
    leaderOk p.store.settings id cls l = true ↔
      l ≠ id ∧ cls ≠ .override ∧ (∀ f sh, showOf p f = some sh → sh.leader ≠ some id) ∧
        ∀ sh, showOf p l = some sh → sh.leader = none ∧ sh.cls ≠ .override := by
  unfold leaderOk
  simp only [Bool.and_eq_true, decide_eq_true_iff, Bool.not_eq_true', isLeader_false_iff, and_assoc]
  refine and_congr_right fun _ => and_congr_right fun _ => and_congr_right fun _ => ?_
  cases stored : showOf p l with
  | none =>
    rw [showOf] at stored
    simp [stored]
  | some sh =>
    rw [showOf] at stored
    simp [stored]

theorem leadersOk_iff (p : Blocks) (id : Nat) (h : ShowHeader) :
    leadersOk p.store.settings id h = true ↔
      (∀ l, h.leader = some l → leaderOk p.store.settings id h.cls l = true) ∧
        (h.cls = .override → ∀ f sh, showOf p f = some sh → sh.leader ≠ some id) := by
  unfold leadersOk
  rw [Bool.and_eq_true, Bool.not_eq_true', Bool.and_eq_false_imp, isLeader_false_iff, decide_eq_true_iff]
  refine and_congr_left fun _ => ?_
  cases h.leader with
  | none => simp
  | some l => simp

/-- A header is accepted where it is in range and keeps the leader rules (R2, R6, R7). -/
theorem headerAccepted_iff (p : Blocks) (id : Nat) (h : ShowHeader) :
    HeaderAccepted p id h ↔ headerInRange p h ∧ leadersOk p.store.settings id h = true := by
  rw [leadersOk_iff]
  unfold headerInRange
  rw [labelOk_iff, channelListOk_iff, combinationsOk_iff]
  constructor
  · rintro ⟨label, channels, length, plays, timeout, rest, ambient, tied, leader, led⟩
    exact ⟨⟨length, plays, timeout, rest, fun l e => (leader l e).1, label, channels, ambient, tied⟩,
      fun l e => (leaderOk_iff p id h.cls l).mpr (leader l e).2, led⟩
  · rintro ⟨⟨length, plays, timeout, rest, leader, label, channels, ambient, tied⟩, leads, led⟩
    exact ⟨label, channels, length, plays, timeout, rest, ambient, tied,
      fun l e => ⟨leader l e, (leaderOk_iff p id h.cls l).mp (leads l e)⟩, led⟩

/-! ### DEFINE-SHOW (R6) -/

section
variable {r : DefineShowReq} {p : Blocks}

theorem askDefineShow_of_lt (h : 63 < r.id) : askDefineShow r p = (.refused .badField, p) := if_pos h

theorem askDefineShow_of_active (h : r.id ≤ 63) (active : showActive p r.id = true) : askDefineShow r p = (.refused .showActive, p) := by
  rw [askDefineShow, if_neg (Nat.not_lt.mpr h), if_pos active]
  rfl

variable (h : r.id ≤ 63) (idle : showActive p r.id = false)
include h idle

theorem askDefineShow_of_none (unread : headerOf p.store.settings r = none) : askDefineShow r p = (.refused .badField, p) := by
  rw [askDefineShow, if_neg (Nat.not_lt.mpr h), if_neg (Bool.eq_false_iff.mp idle), unread]
  rfl

theorem askDefineShow_of_leaders {hd : ShowHeader} (read : headerOf p.store.settings r = some hd)
    (bad : leadersOk p.store.settings r.id hd = false) : askDefineShow r p = (.refused .badField, p) := by
  rw [askDefineShow, if_neg (Nat.not_lt.mpr h), if_neg (Bool.eq_false_iff.mp idle), read]
  exact if_neg (Bool.eq_false_iff.mp bad)

theorem askDefineShow_of_ok {hd : ShowHeader} (read : headerOf p.store.settings r = some hd)
    (ok : leadersOk p.store.settings r.id hd = true) :
    askDefineShow r p =
      (.ok (.showDefined r.id (cueCountOf (showOf p r.id))
          (cuesUsed { p.store.settings with shows := tset p.store.settings.shows r.id (some { toShowHeader := hd, cues := [] }) })),
        setSettings { p.store.settings with shows := tset p.store.settings.shows r.id (some { toShowHeader := hd, cues := [] }) } p) := by
  rw [askDefineShow, if_neg (Nat.not_lt.mpr h), if_neg (Bool.eq_false_iff.mp idle), read]
  exact if_pos ok

end

theorem defineShow_refused {s : State} (tag : Byte) {r : DefineShowReq} {why : Reason} (ready : Ready s.part)
    (ask : askDefineShow r s.part = (.refused why, s.part)) : exec (.defineShow tag r) s = repliesRefused s tag 1 why :=
  repliesRefused_of ready rfl (congrArg (answerWith tag 1) ask)

/-- Settles O10. The request's fields are read back as the header that carries them; what is refused has no header in range, or one that breaks a leader rule. -/
theorem defineShowWritesTheHeader : Obligations.DefineShowWritesTheHeader := by
  refine ⟨fun s tag id h ready inRange idle accepted => ?_, fun s tag r id h ready => ⟨fun beyond => ?_, fun inRange idle codes => ?_,
    fun inRange active => ?_, fun inRange idle rejected => ?_⟩⟩
  · obtain ⟨fits, leaders⟩ := (headerAccepted_iff s.part id h).mp accepted
    have read := (headerOf_request s.part id h h).mpr ⟨fits, rfl⟩
    exact ⟨_, rfl, repliesOk_of ready rfl (congrArg (answerWith tag 1) (askDefineShow_of_ok inRange idle read leaders))⟩
  · exact defineShow_refused tag ready (askDefineShow_of_lt beyond)
  · refine defineShow_refused tag ready (askDefineShow_of_none inRange idle ?_)
    cases read : headerOf s.part.store.settings r with
    | none => rfl
    | some hd =>
      obtain ⟨cls, preempt, conflict, primeMode, tied, autostart, keepClosed, leader⟩ := headerOf_codes read
      rcases codes with beyond | beyond | beyond | beyond | beyond | beyond | beyond | malformed
      case inr.inr.inr.inr.inr.inr.inr => exact absurd malformed leader
      all_goals omega
  · exact defineShow_refused tag ready (askDefineShow_of_active inRange active)
  · refine defineShow_refused tag ready ?_
    cases read : headerOf s.part.store.settings (h.request id) with
    | none => exact askDefineShow_of_none inRange idle read
    | some hd =>
      obtain ⟨fits, rfl⟩ := (headerOf_request s.part id h hd).mp read
      cases leaders : leadersOk s.part.store.settings id h with
      | false => exact askDefineShow_of_leaders inRange idle read leaders
      | true => exact absurd ((headerAccepted_iff s.part id h).mpr ⟨fits, leaders⟩) rejected

/-! ### ERASE-SHOW (R10) -/

theorem sum_set_eq {l : List Nat} {i x : Nat} (h : l[i]? = some x) : (l.set i 0).sum + x = l.sum := by
  induction l generalizing i with
  | nil => cases h
  | cons y ys ih =>
    cases i with
    | zero => cases h; simp; omega
    | succ i =>
      have rest := ih (i := i) h
      simp only [List.set_cons_succ, List.sum_cons]
      omega

/-- The cues of a place that is emptied are no longer counted (R1). -/
theorem cuesUsed_erased {p : Blocks} {id : Nat} {sh : ShowRecord} (stored : showOf p id = some sh) :
    cuesUsed { p.store.settings with shows := tset p.store.settings.shows id none } + sh.cues.length = cuesUsed p.store.settings := by
  have inTable := showOf_lt stored
  unfold cuesUsed tset
  rw [Vector.toList_setIfInBounds, List.map_set]
  refine sum_set_eq ?_
  rw [showOf, tget_of_lt _ _ inTable] at stored
  rw [List.getElem?_map, Vector.getElem?_toList, Vector.getElem?_eq_getElem inTable, stored]
  rfl

section
variable {id : Nat} {p : Blocks}

theorem askEraseShow_of_lt (h : 63 < id) : askEraseShow id p = (.refused .badField, p) := if_pos h

theorem askEraseShow_of_none (h : id ≤ 63) (none : showOf p id = none) : askEraseShow id p = (.refused .noShow, p) := by
  simp only [askEraseShow, if_neg (Nat.not_lt.mpr h), none, refuseAs]

theorem askEraseShow_of_active {sh : ShowRecord} (h : id ≤ 63) (stored : showOf p id = some sh) (active : showActive p id = true) :
    askEraseShow id p = (.refused .showActive, p) := by
  simp only [askEraseShow, if_neg (Nat.not_lt.mpr h), stored, active, if_true, refuseAs]

theorem askEraseShow_of_idle {sh : ShowRecord} (h : id ≤ 63) (stored : showOf p id = some sh) (idle : showActive p id = false) :
    askEraseShow id p =
      (.ok (.showErased id sh.cues.length (cuesUsed { p.store.settings with shows := tset p.store.settings.shows id none })),
        setSettings { p.store.settings with shows := tset p.store.settings.shows id none } p) := by
  simp only [askEraseShow, if_neg (Nat.not_lt.mpr h), stored, idle, Bool.false_eq_true, if_false]
  rfl

end

theorem eraseShow_refused {s : State} (tag : Byte) {id : Nat} {why : Reason} (ready : Ready s.part)
    (ask : askEraseShow id s.part = (.refused why, s.part)) : exec (.eraseShow tag id) s = repliesRefused s tag 3 why :=
  repliesRefused_of ready rfl (congrArg (answerWith tag 3) ask)

/-- Settles O12, by the checks of R10 in their order; the count of cues used falls by those of the place. -/
theorem eraseShowEmptiesThePlace : Obligations.EraseShowEmptiesThePlace := by
  intro s tag id ready
  refine ⟨fun beyond => ?_, fun inRange none => ?_, fun sh inRange stored => ⟨fun active => ?_, fun idle => ⟨_, rfl, cuesUsed_erased stored, ?_⟩⟩⟩
  · exact eraseShow_refused tag ready (askEraseShow_of_lt beyond)
  · exact eraseShow_refused tag ready (askEraseShow_of_none inRange none)
  · exact eraseShow_refused tag ready (askEraseShow_of_active inRange stored active)
  · exact repliesOk_of ready rfl (congrArg (answerWith tag 3) (askEraseShow_of_idle inRange stored idle))

end Sys2Proof.Machine

/-! SUPPORT. APPEND-CUES: a cue is read back from the record that carries it where R3 and R9 accept it, and a frame's cues where each does and their offsets ascend (R3, R8, R9). -/

namespace Sys2Proof.Machine

/-! ### One cue -/

theorem Cue.raw_offset (spare : Nat) (c : Cue) : (c.raw spare).offset = c.offset := by
  unfold Cue.raw
  split <;> rfl

/-- The ranges of R3 for an action's own fields. -/
def actionInRange : CueAction → Prop
  | .play _ clip lvl _ => (1 ≤ clip ∧ clip ≤ 65535) ∧ lvl ≤ 100
  | .scene _ scene fade => (1 ≤ scene ∧ scene ≤ 999) ∧ fade ≤ 6000
  | .level _ lvl fade => lvl ≤ 100 ∧ fade ≤ 6000
  | .pulse _ duration => 1 ≤ duration ∧ duration ≤ 6000
  | .stop _ => True
  | .hold timeout => timeout ≤ 3600
  | .mark number => number ≤ 255

/-- An action is read back from the record that carries it where its fields are in range. -/
theorem cueActionOf_raw (spare : Nat) (c : Cue) (a : CueAction) :
    cueActionOf (c.raw spare) = some a ↔ actionInRange c.action ∧ c.action = a := by
  obtain ⟨offset, action⟩ := c
  cases action with
  | play i clip lvl loop =>
    simp only [Cue.raw, cueActionOf, actionInRange, yesNo_toNat, Option.bind_eq_bind, Option.bind_some, Option.bind_eq_some_iff, within_eq_some,
      Option.some.injEq]
    constructor
    · rintro ⟨_, ⟨clip, rfl⟩, _, ⟨⟨_, lvl⟩, rfl⟩, rfl⟩; exact ⟨⟨clip, lvl⟩, rfl⟩
    · rintro ⟨⟨clip, lvl⟩, rfl⟩; exact ⟨_, ⟨clip, rfl⟩, _, ⟨⟨Nat.zero_le _, lvl⟩, rfl⟩, rfl⟩
  | scene i scene fade =>
    simp only [Cue.raw, cueActionOf, actionInRange, Nat.div_add_mod', Option.bind_eq_bind, Option.bind_eq_some_iff, within_eq_some, Option.some.injEq]
    constructor
    · rintro ⟨_, ⟨scene, rfl⟩, _, ⟨⟨_, fade⟩, rfl⟩, rfl⟩; exact ⟨⟨scene, fade⟩, rfl⟩
    · rintro ⟨⟨scene, fade⟩, rfl⟩; exact ⟨_, ⟨scene, rfl⟩, _, ⟨⟨Nat.zero_le _, fade⟩, rfl⟩, rfl⟩
  | level i lvl fade =>
    simp only [Cue.raw, cueActionOf, actionInRange, Option.bind_eq_bind, Option.bind_eq_some_iff, within_eq_some, Option.some.injEq]
    constructor
    · rintro ⟨_, ⟨⟨_, fade⟩, rfl⟩, _, ⟨⟨_, lvl⟩, rfl⟩, rfl⟩; exact ⟨⟨lvl, fade⟩, rfl⟩
    · rintro ⟨⟨lvl, fade⟩, rfl⟩; exact ⟨_, ⟨⟨Nat.zero_le _, fade⟩, rfl⟩, _, ⟨⟨Nat.zero_le _, lvl⟩, rfl⟩, rfl⟩
  | pulse i duration =>
    simp only [Cue.raw, cueActionOf, actionInRange, Option.bind_eq_bind, Option.bind_eq_some_iff, within_eq_some, Option.some.injEq]
    constructor
    · rintro ⟨_, ⟨duration, rfl⟩, rfl⟩; exact ⟨duration, rfl⟩
    · rintro ⟨duration, rfl⟩; exact ⟨_, ⟨duration, rfl⟩, rfl⟩
  | stop i => simp [Cue.raw, cueActionOf, actionInRange]
  | hold timeout =>
    simp only [Cue.raw, cueActionOf, actionInRange, Option.bind_eq_bind, Option.bind_eq_some_iff, within_eq_some, Option.some.injEq]
    constructor
    · rintro ⟨_, ⟨⟨_, timeout⟩, rfl⟩, rfl⟩; exact ⟨timeout, rfl⟩
    · rintro ⟨timeout, rfl⟩; exact ⟨_, ⟨⟨Nat.zero_le _, timeout⟩, rfl⟩, rfl⟩
  | mark number =>
    simp only [Cue.raw, cueActionOf, actionInRange, Option.bind_eq_bind, Option.bind_eq_some_iff, within_eq_some, Option.some.injEq]
    constructor
    · rintro ⟨_, ⟨⟨_, number⟩, rfl⟩, rfl⟩; exact ⟨number, rfl⟩
    · rintro ⟨number, rfl⟩; exact ⟨_, ⟨⟨Nat.zero_le _, number⟩, rfl⟩, rfl⟩

/-- An action code above 6, or the loop byte of a PLAY above 1, is no action (R183). -/
theorem cueActionOf_none {c : RawCue} (h : 6 < c.action ∨ c.action = 0 ∧ 1 < c.byte8) : cueActionOf c = none := by
  unfold cueActionOf
  split
  case h_1 zero =>
    have loop : yesNo c.byte8 = none := yesNo_none (by omega)
    rw [loop]
    cases within 1 65535 c.word with
    | none => rfl
    | some _ => cases within 0 100 c.byte7 with
      | none => rfl
      | some _ => rfl
  case h_8 => rfl
  all_goals omega

/-- The kinds of channel that an action suits (R3). -/
def CueAction.kinds : CueAction → List ChannelKind
  | .play _ _ _ _ => [.video, .audio]
  | .scene _ _ _ => [.light]
  | .level _ _ _ => [.audio, .light]
  | .pulse _ _ => [.effect]
  | .stop _ => [.video, .audio, .light, .effect]
  | .hold _ => []
  | .mark _ => []

theorem suits_iff (a : CueAction) (k : ChannelKind) : a.suits k = true ↔ k ∈ a.kinds := by
  cases a <;> cases k <;> simp [CueAction.suits, CueAction.kinds]

theorem channelFits_of_index (p : Blocks) (sh : ShowRecord) {a : CueAction} {i : Nat} (h : a.index? = some i) :
    channelFits p.store.settings sh a = true ↔ indexSuits p sh i a.kinds := by
  unfold channelFits indexSuits
  rw [h]
  constructor
  · intro fits
    dsimp only at fits
    split at fits
    · cases fits
    · rename_i ch listed
      split at fits
      · cases fits
      · rename_i e mapped
        exact ⟨ch, e, listed, mapped, (suits_iff a e.kind).mp fits⟩
  · rintro ⟨ch, e, listed, mapped, kind⟩
    unfold channelEntry at mapped
    simp only [listed, mapped]
    exact (suits_iff a e.kind).mpr kind

/-- A cue is accepted where its fields are in range, its channel suits it and its offset is within the show (R3, R9). -/
theorem cueAccepted_iff (p : Blocks) (sh : ShowRecord) (c : Cue) :
    cueAccepted p sh c ↔ actionInRange c.action ∧ channelFits p.store.settings sh c.action = true ∧ c.offset ≤ sh.length := by
  obtain ⟨offset, action⟩ := c
  unfold cueAccepted
  cases action with
  | play i clip lvl loop => rw [channelFits_of_index p sh rfl]; simp only [actionInRange, CueAction.kinds]; tauto
  | scene i scene fade => rw [channelFits_of_index p sh rfl]; simp only [actionInRange, CueAction.kinds]; tauto
  | level i lvl fade => rw [channelFits_of_index p sh rfl]; simp only [actionInRange, CueAction.kinds]; tauto
  | pulse i duration => rw [channelFits_of_index p sh rfl]; simp only [actionInRange, CueAction.kinds]; tauto
  | stop i => rw [channelFits_of_index p sh rfl]; simp only [actionInRange, CueAction.kinds]; tauto
  | hold timeout => simp only [actionInRange, channelFits, CueAction.index?]; tauto
  | mark number => simp only [actionInRange, channelFits, CueAction.index?]; tauto

theorem cueOf_raw (p : Blocks) (sh : ShowRecord) (least spare : Nat) (c q : Cue) :
    cueOf p.store.settings sh least (c.raw spare) = some q ↔ cueAccepted p sh c ∧ least ≤ c.offset ∧ c = q := by
  unfold cueOf
  simp only [Option.bind_eq_bind, Option.bind_eq_some_iff, cueActionOf_raw, Cue.raw_offset, Option.ite_none_right_eq_some, Bool.and_eq_true,
    decide_eq_true_iff, Option.some.injEq, cueAccepted_iff]
  constructor
  · rintro ⟨_, ⟨range, rfl⟩, ⟨⟨fits, length⟩, least⟩, rfl⟩; exact ⟨⟨range, fits, length⟩, least, rfl⟩
  · rintro ⟨⟨range, fits, length⟩, least, rfl⟩; exact ⟨_, ⟨range, rfl⟩, ⟨⟨fits, length⟩, least⟩, rfl⟩

/-! ### The cues of a frame -/

/-- The cues of a frame are read back in order where each is accepted and the offsets, from the last one stored, never fall (R9). -/
theorem cuesOf_raw (p : Blocks) (sh : ShowRecord) (spare least : Nat) (cs qs : List Cue) :
    cuesOf p.store.settings sh least (cs.map (Cue.raw spare)) = some qs ↔
      (∀ c ∈ cs, cueAccepted p sh c) ∧ (least :: cs.map (fun c => c.offset)).Pairwise (· ≤ ·) ∧ cs = qs := by
  induction cs generalizing least qs with
  | nil => simp [cuesOf]
  | cons c cs ih =>
    simp only [List.map_cons, cuesOf, Cue.raw_offset, Option.bind_eq_bind, Option.bind_eq_some_iff, cueOf_raw, ih, Option.some.injEq,
      ← List.isChain_iff_pairwise, List.isChain_cons_cons, List.forall_mem_cons]
    constructor
    · rintro ⟨_, ⟨accepted, below, rfl⟩, _, ⟨later, chain, rfl⟩, rfl⟩; exact ⟨⟨accepted, later⟩, ⟨below, chain⟩, rfl⟩
    · rintro ⟨⟨accepted, later⟩, ⟨below, chain⟩, rfl⟩; exact ⟨_, ⟨accepted, below, rfl⟩, _, ⟨later, chain, rfl⟩, rfl⟩

theorem cuesOf_length {st : Settings} {sh : ShowRecord} {least : Nat} {raw : List RawCue} {qs : List Cue} (h : cuesOf st sh least raw = some qs) :
    qs.length = raw.length := by
  induction raw generalizing least qs with
  | nil => cases h; rfl
  | cons c cs ih =>
    obtain ⟨q, _, h⟩ := Option.bind_eq_some_iff.mp h
    obtain ⟨rest, later, h⟩ := Option.bind_eq_some_iff.mp h
    cases h
    rw [List.length_cons, List.length_cons, ih later]

/-- A frame with a record that is no cue has no cues. -/
theorem cuesOf_none {st : Settings} {sh : ShowRecord} {least : Nat} {raw : List RawCue} (h : ∃ c ∈ raw, cueActionOf c = none) :
    cuesOf st sh least raw = none := by
  induction raw generalizing least with
  | nil => obtain ⟨c, held, _⟩ := h; cases held
  | cons c cs ih =>
    obtain ⟨d, held, bad⟩ := h
    rw [cuesOf]
    cases first : cueOf st sh least c with
    | none => rfl
    | some q =>
      rcases List.mem_cons.mp held with rfl | later
      · rw [cueOf, bad] at first; cases first
      · exact congrArg (fun o => Option.bind o _) (ih ⟨d, later, bad⟩)

/-! ### The request (R8) -/

section
variable {id : Nat} {raw : List RawCue} {p : Blocks}

theorem askAppendCues_of_lt (h : 63 < id) : askAppendCues { id := id, cues := raw } p = (.refused .badField, p) := if_pos h

variable (h : id ≤ 63)
include h

theorem askAppendCues_of_undefined (none : showOf p id = none) : askAppendCues { id := id, cues := raw } p = (.refused .noShow, p) := by
  simp only [askAppendCues, if_neg (Nat.not_lt.mpr h), none, refuseAs]

variable {sh : ShowRecord} (stored : showOf p id = some sh)
include stored

theorem askAppendCues_of_active (active : showActive p id = true) : askAppendCues { id := id, cues := raw } p = (.refused .showActive, p) := by
  simp only [askAppendCues, if_neg (Nat.not_lt.mpr h), stored, active, if_true, refuseAs]

variable (idle : showActive p id = false)
include idle

theorem askAppendCues_of_count (count : raw.length < 1 ∨ 12 < raw.length) : askAppendCues { id := id, cues := raw } p = (.refused .badField, p) := by
  simp only [askAppendCues, if_neg (Nat.not_lt.mpr h), stored, idle, Bool.false_eq_true, if_false, if_pos count, refuseAs]

theorem askAppendCues_of_none (none : cuesOf p.store.settings sh (lastOffset sh) raw = none) :
    askAppendCues { id := id, cues := raw } p = (.refused .badField, p) := by
  simp only [askAppendCues, if_neg (Nat.not_lt.mpr h), stored, idle, Bool.false_eq_true, if_false, none, refuseAs, ite_self]

variable (few : 1 ≤ raw.length) (many : raw.length ≤ 12) {cs : List Cue} (read : cuesOf p.store.settings sh (lastOffset sh) raw = some cs)
include few many read

theorem askAppendCues_of_full (full : 4096 < cuesUsed p.store.settings + cs.length ∨ 512 < sh.cues.length + cs.length) :
    askAppendCues { id := id, cues := raw } p = (.refused .storeFull, p) := by
  have count : ¬ (raw.length < 1 ∨ 12 < raw.length) := by omega
  simp only [askAppendCues, if_neg (Nat.not_lt.mpr h), stored, idle, Bool.false_eq_true, if_false, if_neg count, read, refuseAs]
  rcases full with store | list
  · rw [if_pos store]
  · rw [if_pos list, ite_self]

theorem askAppendCues_of_room (store : cuesUsed p.store.settings + cs.length ≤ 4096) (list : sh.cues.length + cs.length ≤ 512) :
    askAppendCues { id := id, cues := raw } p =
      (.ok (.cuesAppended id sh.cues.length (sh.cues.length + cs.length)
          (cuesUsed { p.store.settings with shows := tset p.store.settings.shows id (some { sh with cues := sh.cues ++ cs }) })),
        setSettings { p.store.settings with shows := tset p.store.settings.shows id (some { sh with cues := sh.cues ++ cs }) } p) := by
  have count : ¬ (raw.length < 1 ∨ 12 < raw.length) := by omega
  simp only [askAppendCues, if_neg (Nat.not_lt.mpr h), stored, idle, Bool.false_eq_true, if_false, if_neg count, read,
    if_neg (Nat.not_lt.mpr store), if_neg (Nat.not_lt.mpr list)]
  rfl

end

theorem appendCues_refused {s : State} (tag : Byte) {r : AppendCuesReq} {why : Reason} (ready : Ready s.part)
    (ask : askAppendCues r s.part = (.refused why, s.part)) : exec (.appendCues tag r) s = repliesRefused s tag 2 why :=
  repliesRefused_of ready rfl (congrArg (answerWith tag 2) ask)

/-- Settles O11, by the checks of R8 in their order; the cues of the frame are read back as those that it carries. -/
theorem appendCuesAddsInOrder : Obligations.AppendCuesAddsInOrder := by
  refine ⟨fun s tag id spare sh cs ready inRange stored idle few many accepted ascend store list => ?_,
    fun s tag id spare raw cs ready => ⟨fun beyond => ?_, fun inRange none => ?_, fun sh inRange stored => ⟨fun active => ?_,
      fun idle => ⟨fun count => ?_, ?_, fun few many => ⟨fun bad => ?_, fun accepted ascend full => ?_⟩⟩⟩⟩⟩
  · have read := (cuesOf_raw s.part sh spare (lastOffset sh) cs cs).mpr ⟨accepted, ascend, rfl⟩
    have room := askAppendCues_of_room inRange stored idle (by rw [List.length_map]; exact few) (by rw [List.length_map]; exact many) read store list
    exact ⟨_, rfl, repliesOk_of ready rfl (congrArg (answerWith tag 2) room)⟩
  · exact appendCues_refused tag ready (askAppendCues_of_lt beyond)
  · exact appendCues_refused tag ready (askAppendCues_of_undefined inRange none)
  · exact appendCues_refused tag ready (askAppendCues_of_active inRange stored active)
  · exact appendCues_refused tag ready (askAppendCues_of_count inRange stored idle count)
  · rintro ⟨c, held, bad⟩
    exact appendCues_refused tag ready (askAppendCues_of_none inRange stored idle (cuesOf_none ⟨c, held, cueActionOf_none bad⟩))
  · refine appendCues_refused tag ready (askAppendCues_of_none inRange stored idle ?_)
    cases read : cuesOf s.part.store.settings sh (lastOffset sh) (cs.map (Cue.raw spare)) with
    | none => rfl
    | some qs =>
      obtain ⟨accepted, ascend, _⟩ := (cuesOf_raw s.part sh spare (lastOffset sh) cs qs).mp read
      rcases bad with ⟨c, held, rejected⟩ | falls
      · exact absurd (accepted c held) rejected
      · exact absurd ascend falls
  · have read := (cuesOf_raw s.part sh spare (lastOffset sh) cs cs).mpr ⟨accepted, ascend, rfl⟩
    exact appendCues_refused tag ready (askAppendCues_of_full inRange stored idle (by rw [List.length_map]; exact few)
      (by rw [List.length_map]; exact many) read full)

end Sys2Proof.Machine

/-! SUPPORT. SAVE-STORE: what its beginning and its end write, by the area that the note names (R15, R16). -/

namespace Sys2Proof.Machine

/-! ### The beginning of a save -/

section
variable {p : Blocks} (tag : Byte)

theorem beginSave_of_unnoted (h : p.store.note = none) :
    beginSave tag p = { p with store := { p.store with
      areaA := none, save := some { tag := tag, area := .a, image := { generation := 1, settings := p.store.settings } } } } := by
  have area : saveArea p.store = .a := by rw [saveArea, h]
  have generation : saveGeneration p.store = 1 := by rw [saveGeneration, currentImage, h]
  simp only [beginSave, area, generation]
  rfl

theorem beginSave_of_noted_a {im : Image} (h : p.store.note = some .a) (held : p.store.areaA = some im) :
    beginSave tag p = { p with store := { p.store with
      areaB := none, save := some { tag := tag, area := .b, image :=
        { generation := (im.generation + 1) % 65536, settings := p.store.settings } } } } := by
  have area : saveArea p.store = .b := by rw [saveArea, h]
  have current : currentImage p.store = some im := by rw [currentImage, h]; exact held
  have generation : saveGeneration p.store = (im.generation + 1) % 65536 := by rw [saveGeneration, current]
  simp only [beginSave, area, generation]
  rfl

theorem beginSave_of_noted_b {im : Image} (h : p.store.note = some .b) (held : p.store.areaB = some im) :
    beginSave tag p = { p with store := { p.store with
      areaA := none, save := some { tag := tag, area := .a, image :=
        { generation := (im.generation + 1) % 65536, settings := p.store.settings } } } } := by
  have area : saveArea p.store = .a := by rw [saveArea, h]
  have current : currentImage p.store = some im := by rw [currentImage, h]; exact held
  have generation : saveGeneration p.store = (im.generation + 1) % 65536 := by rw [saveGeneration, current]
  simp only [beginSave, area, generation]
  rfl

end

theorem exec_saveStore {s : State} (tag : Byte) (ready : Ready s.part) : exec (.saveStore tag) s = becomes s (transmit (beginSave tag s.part)) :=
  (exec_arrival (c := .saveStore tag) rfl s).trans (happens_request tag .saveStore s ready)

/-! ### The end of a save -/

theorem savedStore_true (j : SaveJob) (c : CueStore) : savedStore j true c = { c with
    areaA := if j.area = .a then some j.image else c.areaA
    areaB := if j.area = .b then some j.image else c.areaB
    note := some j.area, save := none } := by
  unfold savedStore
  cases area : j.area with
  | a => rfl
  | b => rfl

theorem savedStore_false (j : SaveJob) (c : CueStore) : savedStore j false c = { c with
    areaA := if j.area = .a then none else c.areaA
    areaB := if j.area = .b then none else c.areaB
    save := none } := by
  unfold savedStore
  cases area : j.area with
  | a => rfl
  | b => rfl

theorem endSave_of_save {p : Blocks} {j : SaveJob} (passes : Bool) (h : p.store.save = some j) :
    endSave passes p = putNotice (.storeSaved passes j.image.generation)
      (putReply (.ok j.tag saveKind (.saved passes j.image.generation)) { p with store := savedStore j passes p.store }) := by
  rw [endSave, h]

theorem exec_saveWriteEnd (passes : Bool) (s : State) : exec (.saveWriteEnd passes) s = becomes s (finish (endSave passes s.part)) := rfl

theorem exec_saveWriteEnd_empty {s : State} {j : SaveJob} (passes : Bool) (h : s.part.store.save = some j) (empty : s.part.link.requests = []) :
    exec (.saveWriteEnd passes) s = becomes s (transmit (endSave passes s.part)) := by
  rw [exec_saveWriteEnd, finish_empty]
  rw [endSave_of_save passes h, putNotice_requests]
  exact empty

/-- Settles O14. The area and the generation follow the note; the end of the write makes the reply and the notice. -/
theorem aSaveWritesTheOtherArea : Obligations.ASaveWritesTheOtherArea := by
  refine ⟨fun s tag ready => ⟨fun unnoted => ?_, fun im noted held => ?_, fun im noted held => ?_⟩, fun s j writes => ?_⟩
  · rw [exec_saveStore tag ready, beginSave_of_unnoted tag unnoted]
  · rw [exec_saveStore tag ready, beginSave_of_noted_a tag noted held]
  · rw [exec_saveStore tag ready, beginSave_of_noted_b tag noted held]
  · refine ⟨endSave true s.part, endSave false s.part, ?_, ?_, rfl, rfl, fun empty => ⟨?_, ?_⟩⟩
    · rw [endSave_of_save true writes, savedStore_true]
      rfl
    · rw [endSave_of_save false writes, savedStore_false]
      rfl
    · exact exec_saveWriteEnd_empty true writes empty
    · exact exec_saveWriteEnd_empty false writes empty

end Sys2Proof.Machine

/-! SUPPORT. SET-CHANNEL: the entry that its request carries, its checks in their order, and what it does to a law on the channel (R21, R22, R138). -/

namespace Sys2Proof.Machine

/-! ### The entry -/

theorem mappingOf_code (e : ChannelEntry) (o : ChannelEntry) :
    mappingOf { gallery := e.gallery, kind := codeOf [.video, .audio, .light, .effect] e.kind, node := e.node, nodeChannel := e.nodeChannel } = some o ↔
      entryInRange (some e) ∧ e = o := by
  unfold mappingOf entryInRange
  simp only [kindOf_code, Option.bind_eq_bind, Option.bind_some, Option.bind_eq_some_iff, within_eq_some, Option.some.injEq]
  constructor
  · rintro ⟨_, ⟨⟨_, gallery⟩, rfl⟩, _, ⟨⟨low, high⟩, rfl⟩, _, ⟨⟨_, nodeChannel⟩, rfl⟩, rfl⟩
    exact ⟨⟨gallery, low, high, nodeChannel⟩, rfl⟩
  · rintro ⟨⟨gallery, low, high, nodeChannel⟩, rfl⟩
    exact ⟨_, ⟨⟨Nat.zero_le _, gallery⟩, rfl⟩, _, ⟨⟨low, high⟩, rfl⟩, _, ⟨⟨Nat.zero_le _, nodeChannel⟩, rfl⟩, rfl⟩

/-- An entry is read back from the request that carries it where it keeps the ranges of R21. -/
theorem entryOfReq_request (ch : Nat) (spare : MappingReq) (new o : Option ChannelEntry) :
    entryOfReq (channelRequest ch spare new) = some o ↔ entryInRange new ∧ new = o := by
  cases new with
  | none => simp [channelRequest, entryOfReq, yesNo, pick, entryInRange]
  | some e =>
    have read : entryOfReq (channelRequest ch spare (some e)) = (mappingOf
        { gallery := e.gallery, kind := codeOf [.video, .audio, .light, .effect] e.kind, node := e.node, nodeChannel := e.nodeChannel }).map some := rfl
    rw [read, Option.map_eq_some_iff]
    simp only [mappingOf_code]
    constructor
    · rintro ⟨_, ⟨range, rfl⟩, rfl⟩; exact ⟨range, rfl⟩
    · rintro ⟨range, rfl⟩; exact ⟨e, ⟨range, rfl⟩, rfl⟩

/-- A flag above 1, or a kind beyond the list, is no entry (R183). -/
theorem entryOfReq_none {r : SetChannelReq} (h : 1 < r.mapped ∨ r.mapped = 1 ∧ 3 < r.mapping.kind) : entryOfReq r = none := by
  unfold entryOfReq
  rcases h with flag | ⟨one, kind⟩
  · rw [yesNo_none flag]
    rfl
  · have unread : mappingOf r.mapping = none := by
      unfold mappingOf
      rw [show kindOf r.mapping.kind = none from pick_none kind]
      cases within 0 15 r.mapping.gallery with
      | none => rfl
      | some _ => rfl
    rw [one, show yesNo 1 = some true from rfl]
    exact congrArg (Option.map some) unread

/-! ### The checks -/

theorem channelEntry_lt {p : Blocks} {ch : Nat} {e : ChannelEntry} (h : channelEntry p ch = some e) : ch < 128 := by
  refine Nat.lt_of_not_le fun beyond => ?_
  rw [channelEntry, tget_of_le _ _ beyond] at h
  cases h

theorem pairTaken_iff (p : Blocks) (ch : Nat) (new : Option ChannelEntry) :
    pairTaken p.store.settings ch new = true ↔
      ∃ e c o, new = some e ∧ c ≠ ch ∧ channelEntry p c = some o ∧ o.node = e.node ∧ o.nodeChannel = e.nodeChannel := by
  unfold pairTaken
  cases new with
  | none => simp
  | some e =>
    simp only [List.any_eq_true, Bool.and_eq_true, decide_eq_true_iff, Option.some.injEq]
    constructor
    · rintro ⟨c, _, other, same⟩
      cases mapped : channelEntry p c with
      | none => rw [channelEntry] at mapped; simp only [mapped, Bool.false_eq_true] at same
      | some o =>
        rw [channelEntry] at mapped
        simp only [mapped, Bool.and_eq_true, decide_eq_true_iff] at same
        exact ⟨e, c, o, rfl, other, mapped, same.1, same.2⟩
    · rintro ⟨_, c, o, rfl, other, mapped, node, nodeChannel⟩
      refine ⟨c, List.mem_range.mpr (channelEntry_lt mapped), other, ?_⟩
      rw [channelEntry] at mapped
      simp only [mapped, Bool.and_eq_true, decide_eq_true_iff]
      exact ⟨node, nodeChannel⟩

section
variable {r : SetChannelReq} {p : Blocks}

theorem askSetChannel_of_lt (h : 127 < r.channel) : askSetChannel r p = (.refused .badField, p) := if_pos h

theorem askSetChannel_of_none (h : entryOfReq r = none) : askSetChannel r p = (.refused .badField, p) := by
  simp only [askSetChannel, h, refuseAs, ite_self]

variable {new : Option ChannelEntry} (h : r.channel ≤ 127) (read : entryOfReq r = some new)
include h read

theorem askSetChannel_of_taken (taken : pairTaken p.store.settings r.channel new = true) : askSetChannel r p = (.refused .badField, p) := by
  simp only [askSetChannel, if_neg (Nat.not_lt.mpr h), read, taken, if_true, refuseAs]

variable (alone : pairTaken p.store.settings r.channel new = false)
include alone

theorem askSetChannel_of_listed (unmaps : unmapsOrRekinds (channelEntry p r.channel) new = true)
    (listed : channelListed p.store.settings r.channel = true) : askSetChannel r p = (.refused .channelReferenced, p) := by
  simp only [askSetChannel, if_neg (Nat.not_lt.mpr h), read, alone, Bool.false_eq_true, if_false, unmaps, listed, Bool.and_self, if_true, refuseAs]

variable (kept : unmapsOrRekinds (channelEntry p r.channel) new = false ∨ channelListed p.store.settings r.channel = false)
include kept

theorem askSetChannel_of_owned (moves : movesNode (channelEntry p r.channel) new = true) (owned : ownersOf p r.channel ≠ []) :
    askSetChannel r p = (.refused .showActive, p) := by
  have unreferenced : (unmapsOrRekinds (channelEntry p r.channel) new && channelListed p.store.settings r.channel) = false :=
    Bool.and_eq_false_iff.mpr kept
  have stands : (ownersOf p r.channel).isEmpty = false := List.isEmpty_eq_false_iff.mpr owned
  simp only [askSetChannel, if_neg (Nat.not_lt.mpr h), read, alone, Bool.false_eq_true, if_false, unreferenced, moves, stands, Bool.not_false,
    Bool.and_self, if_true, refuseAs]

theorem askSetChannel_of_ok (stays : movesNode (channelEntry p r.channel) new = false ∨ ownersOf p r.channel = []) :
    askSetChannel r p =
      (.ok (.channelSet r.channel new), lawAfterChannel r.channel (channelEntry p r.channel) new (setChannelEntry r.channel new p)) := by
  have unreferenced : (unmapsOrRekinds (channelEntry p r.channel) new && channelListed p.store.settings r.channel) = false :=
    Bool.and_eq_false_iff.mpr kept
  have free : (movesNode (channelEntry p r.channel) new && !(ownersOf p r.channel).isEmpty) = false := by
    rcases stays with still | empty
    · rw [still]; rfl
    · rw [empty]; exact Bool.and_false _
  simp only [askSetChannel, if_neg (Nat.not_lt.mpr h), read, alone, Bool.false_eq_true, if_false, unreferenced, free]

end

theorem channelRequest_channel (ch : Nat) (spare : MappingReq) (new : Option ChannelEntry) : (channelRequest ch spare new).channel = ch := by
  cases new with
  | none => rfl
  | some e => rfl

/-! ### The law on the channel (R138) -/

theorem lawAfterChannel_dropped {old new : Option ChannelEntry} (ch : Nat) (q : Blocks)
    (h : new = none ∨ ∃ e, new = some e ∧ e.kind = .effect) : lawAfterChannel ch old new q = dropLaw ch q := by
  rcases h with rfl | ⟨e, rfl, effect⟩
  · rfl
  · exact if_pos effect

theorem lawAfterChannel_kept {old new : Option ChannelEntry} (ch : Nat) (q : Blocks)
    (h : ¬ (new = none ∨ ∃ e, new = some e ∧ e.kind = .effect)) :
    lawAfterChannel ch old new q = if movesNode old new = true then forgetSent ch q else q := by
  cases new with
  | none => exact absurd (Or.inl rfl) h
  | some e => exact if_neg fun effect => h (Or.inr ⟨e, rfl, effect⟩)

theorem setChannel_refused {s : State} (tag : Byte) {r : SetChannelReq} {why : Reason} (ready : Ready s.part)
    (ask : askSetChannel r s.part = (.refused why, s.part)) : exec (.setChannel tag r) s = repliesRefused s tag 6 why :=
  repliesRefused_of ready rfl (congrArg (answerWith tag 6) ask)

theorem setChannel_ok {s : State} (tag : Byte) {r : SetChannelReq} {body : OkBody} {p : Blocks} (ready : Ready s.part)
    (ask : askSetChannel r s.part = (.ok body, p)) : exec (.setChannel tag r) s = repliesOk s tag 6 body p :=
  repliesOk_of ready rfl (congrArg (answerWith tag 6) ask)

/-- Settles O15, by the checks of R22 in their order, and then by what becomes of the channel's law. -/
theorem setChannelWritesTheEntry : Obligations.SetChannelWritesTheEntry := by
  intro s tag ch spare new r ready
  have named := channelRequest_channel ch spare new
  refine ⟨fun bad => ?_, fun bad => ?_, fun inRange fits => ?_⟩
  · rcases bad with beyond | codes
    · exact setChannel_refused tag ready (askSetChannel_of_lt beyond)
    · exact setChannel_refused tag ready (askSetChannel_of_none (entryOfReq_none codes))
  · rcases bad with beyond | outside
    · exact setChannel_refused tag ready (askSetChannel_of_lt (named.symm ▸ beyond))
    · refine setChannel_refused tag ready (askSetChannel_of_none ?_)
      cases read : entryOfReq (channelRequest ch spare new) with
      | none => rfl
      | some o => exact absurd ((entryOfReq_request ch spare new o).mp read).1 outside
  · have read := (entryOfReq_request ch spare new new).mpr ⟨fits, rfl⟩
    rw [← pairTaken_iff]
    generalize request : channelRequest ch spare new = q at *
    subst named
    refine ⟨fun taken => ?_, fun alone => ?_⟩
    · exact setChannel_refused tag ready (askSetChannel_of_taken inRange read taken)
    have alone := Bool.eq_false_iff.mpr alone
    refine ⟨fun unmaps listed => ?_, fun kept => ⟨fun moves owned => ?_, fun stays => ?_⟩⟩
    · exact setChannel_refused tag ready (askSetChannel_of_listed inRange read alone unmaps listed)
    · exact setChannel_refused tag ready (askSetChannel_of_owned inRange read alone kept moves owned)
    · rw [setChannel_ok tag ready (askSetChannel_of_ok inRange read alone kept stays)]
      refine congrArg (repliesOk s tag 6 _) ?_
      by_cases drops : new = none ∨ ∃ e, new = some e ∧ e.kind = .effect
      · rw [lawAfterChannel_dropped _ _ drops, if_pos drops]
        rfl
      · rw [lawAfterChannel_kept _ _ drops, if_neg drops]
        rfl

end Sys2Proof.Machine

/-! SUPPORT. The requests that only read: each answers with what it finds, or refuses a number beyond its table (R23, R72, R108, R128, R144, R157). -/

namespace Sys2Proof.Machine

section
variable {n : Nat} (p : Blocks)

theorem askGetChannel_of_gt (h : 127 < n) : askGetChannel n p = (.refused .badField, p) := if_pos h

theorem askGetChannel_of_le (h : n ≤ 127) : askGetChannel n p = (.ok (.channel n (channelEntry p n) (ownersOf p n).reverse), p) :=
  if_neg (Nat.not_lt.mpr h)

theorem askGetLaw_of_gt (h : 127 < n) : askGetLaw n p = (.refused .badField, p) := if_pos h

theorem askGetLaw_of_le (h : n ≤ 127) :
    askGetLaw n p = (.ok (.law n ((lawOn p n).map fun law => { settings := law, work := tget p.level.laws n })), p) := if_neg (Nat.not_lt.mpr h)

theorem askGetSlot_of_gt (h : 15 < n) : askGetSlot n p = (.refused .badField, p) := if_pos h

theorem askGetSlot_of_free {p : Blocks} (h : n ≤ 15) (free : slotOf p n = none) : askGetSlot n p = (.ok (.freeSlot n), p) := by
  simp only [askGetSlot, if_neg (Nat.not_lt.mpr h), free]

theorem timerSeconds_eq (t : Option Timer) : timerSeconds t = t.map fun t => (t.ticks + 99) / 100 := by
  cases t with
  | none => rfl
  | some t => rfl

theorem askGetSlot_of_busy {p : Blocks} {r : SlotRec} (h : n ≤ 15) (busy : slotOf p n = some r) :
    askGetSlot n p = (.ok (.slot n r (r.deadline.map fun t => (t + 99) / 100)
      ((tget p.runner.rest r.showId : Option Timer).map fun t => (t.ticks + 99) / 100)), p) := by
  simp only [askGetSlot, if_neg (Nat.not_lt.mpr h), busy, timerSeconds_eq]
  rfl

theorem askGetTriggers_of_table {table : Nat} (h : 2 < table) : askGetTriggers table n p = (.refused .badField, p) := by
  unfold askGetTriggers
  split
  · omega
  · omega
  · omega
  · rfl

theorem askGetEntry_of_gt (h : 95 < n) : askGetEntry n p = (.refused .badField, p) := if_pos h

theorem askGetEntry_of_le (h : n ≤ 95) : askGetEntry n p = (.ok (.entry n (tget p.store.settings.entries n)), p) := if_neg (Nat.not_lt.mpr h)

theorem numbersFrom_eq (start bound : Nat) : numbersFrom start 8 bound = (List.range bound).filter fun i => start ≤ i && i < start + 8 := rfl

theorem sourceView_eq : sourceView p = fun i =>
    { settings := tget p.store.settings.routes i
      pending := (tget p.trigger.sources i).pending
      rearm := (tget p.trigger.sources i).rearm.map fun t => (t.ticks + 99) / 100 } := by
  funext i
  rw [sourceView, timerSeconds_eq]

theorem setView_eq : setView p = fun i =>
    (tget p.store.settings.sets i : Option SetSettings).map fun st => { settings := st, pointer := tget p.trigger.pointers i } := by
  funext i
  unfold setView
  cases (tget p.store.settings.sets i : Option SetSettings) with
  | none => rfl
  | some st => rfl

end

theorem nodeTable_eq {α : Type} (f : Nat → α) : nodeNumbers.map f = (List.range 32).map fun m => f (m + 1) := List.map_map

/-- Settles O16, request by request: the refusal beyond the table, and the part as it was with the answer. -/
theorem readersChangeNothing : Obligations.ReadersChangeNothing := by
  intro s tag n ready
  have refused {c : Instr} {r : Request} {kind : Byte} {why : Reason} (arrival : arrivalOf c = some (tag, r)) {out : Verdict × Blocks}
      (ask : out = (.refused why, s.part)) (taken : takeRequest tag (kindOfRequest r) r s.part = answerWith tag kind out) :
      exec c s = repliesRefused s tag kind why := repliesRefused_of ready arrival (taken.trans (congrArg _ ask))
  have answered {c : Instr} {r : Request} {kind : Byte} {body : OkBody} (arrival : arrivalOf c = some (tag, r)) {out : Verdict × Blocks}
      (ask : out = (.ok body, s.part)) (taken : takeRequest tag (kindOfRequest r) r s.part = answerWith tag kind out) :
      exec c s = repliesOk s tag kind body s.part := repliesOk_of ready arrival (taken.trans (congrArg _ ask))
  refine ⟨fun beyond => ⟨?_, ?_⟩, fun inRange => ⟨?_, fun none => ?_, fun law some => ?_⟩, fun beyond => ?_,
    fun inRange => ⟨fun free => ?_, fun r busy => ?_⟩, ?_, fun table beyond => ?_, fun beyond => ?_, fun inRange => ?_, fun beyond => ?_,
    fun inRange => ?_, fun beyond => ?_, fun inRange => ?_, fun beyond => ?_, fun inRange => ?_⟩
  · exact refused rfl (askGetChannel_of_gt s.part beyond) rfl
  · exact refused rfl (askGetLaw_of_gt s.part beyond) rfl
  · exact answered rfl (askGetChannel_of_le s.part inRange) rfl
  · exact answered rfl ((askGetLaw_of_le s.part inRange).trans (by rw [none]; rfl)) rfl
  · exact answered rfl ((askGetLaw_of_le s.part inRange).trans (by rw [some]; rfl)) rfl
  · exact refused rfl (askGetSlot_of_gt s.part beyond) rfl
  · exact answered rfl (askGetSlot_of_free inRange free) rfl
  · exact answered rfl (askGetSlot_of_busy inRange busy) rfl
  · exact answered rfl (congrArg (fun t => (Verdict.ok (.nodes t _ _), s.part)) (nodeTable_eq _)) rfl
  · exact refused rfl (askGetTriggers_of_table s.part beyond) rfl
  · exact refused rfl (if_pos beyond : askGetTriggers 0 n s.part = _) rfl
  · exact answered rfl (if_neg (Nat.not_lt.mpr inRange) : askGetTriggers 0 n s.part = _) rfl
  · exact refused rfl (if_pos beyond : askGetTriggers 1 n s.part = _) rfl
  · rw [← sourceView_eq]
    exact answered rfl (if_neg (Nat.not_lt.mpr inRange) : askGetTriggers 1 n s.part = _) rfl
  · exact refused rfl (if_pos beyond : askGetTriggers 2 n s.part = _) rfl
  · rw [← setView_eq]
    exact answered rfl (if_neg (Nat.not_lt.mpr inRange) : askGetTriggers 2 n s.part = _) rfl
  · exact refused rfl (askGetEntry_of_gt s.part beyond) rfl
  · exact answered rfl (askGetEntry_of_le s.part inRange) rfl

end Sys2Proof.Machine

/-! SUPPORT. Starts: the checks of R45 in their order, what a start that passes them comes to, and what START answers (R45 to R48, R69). -/

namespace Sys2Proof.Machine

/-! ### The checks (R45) -/

theorem rests_iff (origin : Origin) :
    origin.rests = true ↔ (∃ n, origin = .trigger n ∨ origin = .schedule n ∨ origin = .showSet n) ∨ origin = .autostart := by
  cases origin <;> simp [Origin.rests]

theorem restarts_iff (origin : Origin) : origin.restarts = true ↔ origin = .link ∨ ∃ n, origin = .trigger n := by
  cases origin <;> simp [Origin.restarts]

theorem resting_iff (p : Blocks) (id : Nat) : resting p id = true ↔ (tget p.runner.rest id : Option Timer) ≠ none :=
  Option.isSome_iff_ne_none

section
variable {p : Blocks} {id : Nat} {origin : Origin}

theorem checkStart_of_lt (h : 63 < id) : checkStart p id origin = some .badField := if_pos h

theorem checkStart_of_undefined (h : id ≤ 63) (none : showOf p id = none) : checkStart p id origin = some .noShow := by
  simp only [checkStart, if_neg (Nat.not_lt.mpr h), none]

variable {sh : ShowRecord} (h : id ≤ 63) (stored : showOf p id = some sh)
include h stored

theorem checkStart_of_class (cls : sh.cls = .override) (other : origin ≠ .alarm) : checkStart p id origin = some .badClass := by
  simp only [checkStart, if_neg (Nat.not_lt.mpr h), stored, if_pos (And.intro cls other)]

variable (cls : sh.cls ≠ .override ∨ origin = .alarm)
include cls

theorem checkStart_of_alarm (alarm : p.house.alarmState ≠ .normal) (other : origin ≠ .alarm) : checkStart p id origin = some .alarm := by
  have passes : ¬ (sh.cls = .override ∧ origin ≠ .alarm) := fun c => cls.elim (absurd c.1) c.2
  simp only [checkStart, if_neg (Nat.not_lt.mpr h), stored, if_neg passes, if_pos (And.intro ((underAlarm_iff p).mpr alarm) other)]

variable (quiet : p.house.alarmState = .normal ∨ origin = .alarm)
include quiet

/-- The last two checks, where those before them pass. -/
theorem checkStart_quiet :
    checkStart p id origin = if sh.cues.isEmpty then some .emptyShow else if origin.rests ∧ resting p id then some .resting else none := by
  have passes : ¬ (sh.cls = .override ∧ origin ≠ .alarm) := fun c => cls.elim (absurd c.1) c.2
  have calm : ¬ (underAlarm p ∧ origin ≠ .alarm) := fun c => quiet.elim ((underAlarm_iff p).mp c.1) c.2
  simp only [checkStart, if_neg (Nat.not_lt.mpr h), stored, if_neg passes, if_neg calm]

theorem checkStart_of_empty (empty : sh.cues = []) : checkStart p id origin = some .emptyShow := by
  rw [checkStart_quiet h stored cls quiet, if_pos (List.isEmpty_iff.mpr empty)]

variable (cues : sh.cues ≠ [])
include cues

theorem checkStart_of_resting (rests : origin.rests = true) (rest : (tget p.runner.rest id : Option Timer) ≠ none) :
    checkStart p id origin = some .resting := by
  rw [checkStart_quiet h stored cls quiet, if_neg (fun e => cues (List.isEmpty_iff.mp e)), if_pos ⟨rests, (resting_iff p id).mpr rest⟩]

theorem checkStart_none (rested : origin.rests = false ∨ (tget p.runner.rest id : Option Timer) = none) : checkStart p id origin = none := by
  have passes : ¬ (origin.rests = true ∧ resting p id = true) := fun ⟨rests, rest⟩ =>
    rested.elim (fun r => Bool.false_ne_true (r.symm.trans rests)) ((resting_iff p id).mp rest)
  rw [checkStart_quiet h stored cls quiet, if_neg (fun e => cues (List.isEmpty_iff.mp e)), if_neg passes]

end

/-- A start that passes the checks has none of their reasons. -/
theorem StartPasses.check {p : Blocks} {id : Nat} {origin : Origin} {sh : ShowRecord} (passes : StartPasses p id origin sh) :
    checkStart p id origin = none := by
  refine checkStart_none passes.range passes.stored passes.cls passes.quiet passes.cues (passes.rested.imp_left fun ⟨numbered, auto⟩ => ?_)
  refine Bool.eq_false_iff.mpr fun rests => ?_
  rcases (rests_iff origin).mp rests with ⟨n, o | o | o⟩ | o
  · exact (numbered n).1 o
  · exact (numbered n).2.1 o
  · exact (numbered n).2.2 o
  · exact auto o

/-! ### A start (R45 to R48) -/

section
variable {p : Blocks} {id : Nat} {origin : Origin} {restart : Bool}

theorem startShow_of_check {why : Reason} (h : checkStart p id origin = some why) :
    startShow id origin restart p = (.refused why .check, p) := by
  simp only [startShow, h]

variable {sh : ShowRecord} (check : checkStart p id origin = none) (stored : showOf p id = some sh)
include check stored

theorem startShow_restarts {k : Nat} (holds : slotHolding p id = some k) (restarts : restart = true) (may : origin.restarts = true)
    (runs : runsOrHolds p k = true) : startShow id origin restart p = (.accepted k .restarted, beginAgain k origin p) := by
  simp only [startShow, check, stored, holds, restarts, may, runs, Bool.and_self, if_true]

theorem startShow_already {k : Nat} (holds : slotHolding p id = some k)
    (not : restart = false ∨ origin.restarts = false ∨ runsOrHolds p k = false) :
    startShow id origin restart p = (.refused .already .check, p) := by
  have no : (restart && origin.restarts && runsOrHolds p k) = false := by
    rcases not with n | n | n
    · rw [n]; rfl
    · rw [n, Bool.and_false]; rfl
    · rw [n, Bool.and_false]
  simp only [startShow, check, stored, holds, no, Bool.false_eq_true, if_false]

theorem startShow_full (idle : slotHolding p id = none) (full : ∀ k < 16, slotOf p k ≠ none) :
    startShow id origin restart p = (.refused .slotFull .check, p) := by
  simp only [startShow, check, stored, idle, lowestFree_none full]

theorem startShow_takes {k : Nat} (takes : Takes p id k) : startShow id origin restart p = takeSlot k id sh origin p := by
  simp only [startShow, check, stored, takes.idle, lowestFree_of takes.range takes.free takes.lowest]

end

theorem runsOrHolds_iff {p : Blocks} {k : Nat} {r : SlotRec} (h : slotOf p k = some r) :
    runsOrHolds p k = true ↔ r.state = .running ∨ r.state = .held := by
  simp [runsOrHolds, h]

theorem runsOrHolds_false {p : Blocks} {k : Nat} {r : SlotRec} (h : slotOf p k = some r) (running : r.state ≠ .running) (held : r.state ≠ .held) :
    runsOrHolds p k = false := by
  simp [runsOrHolds, h, running, held]

/-! ### What START answers (R47) -/

theorem yesNo_of_le {n : Nat} (h : n ≤ 1) : yesNo n = some (decide (n = 1)) := by
  rcases Nat.le_one_iff_eq_zero_or_eq_one.mp h with rfl | rfl
  · rfl
  · rfl

section
variable {s : State} (tag : Byte) {id option : Nat} (ready : Ready s.part)
include ready

theorem start_option (h : 1 < option) : exec (.start tag id option) s = repliesRefused s tag 9 .badField := by
  refine repliesRefused_of ready rfl (congrArg (answerWith tag 9) (?_ : askStart id option s.part = (.refused .badField, s.part)))
  rw [askStart, yesNo_none h]
  rfl

variable (h : option ≤ 1)
include h

theorem start_refused {why : Reason} {step : RefusalStep} (ask : startShow id .link (decide (option = 1)) s.part = (.refused why step, s.part)) :
    exec (.start tag id option) s = repliesRefused s tag 9 why := by
  refine repliesRefused_of ready rfl (congrArg (answerWith tag 9) (?_ : askStart id option s.part = (.refused why, s.part)))
  simp only [askStart, yesNo_of_le h, ask]

theorem start_ok {k : Nat} {outcome : StartOutcome} {q : Blocks} (ask : startShow id .link (decide (option = 1)) s.part = (.accepted k outcome, q)) :
    exec (.start tag id option) s = repliesOk s tag 9 (.started k outcome) q := by
  refine repliesOk_of ready rfl (congrArg (answerWith tag 9) (?_ : askStart id option s.part = (.ok (.started k outcome), q)))
  simp only [askStart, yesNo_of_le h, ask]

end

/-- Settles O17: the checks of R45 in their order, and then the slot that holds the show or the want of a FREE one. -/
theorem startIsRefusedInOrder : Obligations.StartIsRefusedInOrder := by
  refine ⟨fun p id origin restart => ⟨fun beyond => ?_, fun inRange none => ?_, fun sh inRange stored => ⟨fun cls other => ?_,
      fun cls => ⟨fun alarm other => ?_, fun quiet => ⟨fun empty => ?_, fun cues rests named => ⟨fun r rest => ?_, fun rested => ?_⟩⟩⟩⟩⟩,
    fun s tag id option ready => ⟨fun beyond => start_option tag ready beyond, fun few beyond => ?_, fun few inRange none => ?_,
      fun sh few inRange stored => ⟨fun cls => ?_, fun cls alarm => ?_, fun cls quiet empty => ?_, fun cls quiet cues => ?_⟩⟩⟩
  · exact startShow_of_check (checkStart_of_lt beyond)
  · exact startShow_of_check (checkStart_of_undefined inRange none)
  · exact startShow_of_check (checkStart_of_class inRange stored cls other)
  · exact startShow_of_check (checkStart_of_alarm inRange stored cls alarm other)
  · exact startShow_of_check (checkStart_of_empty inRange stored cls quiet empty)
  · exact startShow_of_check (checkStart_of_resting inRange stored cls quiet cues ((rests_iff origin).mpr (named.mp r)) rest)
  · have rested : origin.rests = false ∨ (tget p.runner.rest id : Option Timer) = none :=
      rested.imp_left fun n => Bool.eq_false_iff.mpr fun r => n (named.mpr ((rests_iff origin).mp r))
    have check := checkStart_none inRange stored cls quiet cues rested
    refine ⟨fun k r holds held not => startShow_already check stored holds ?_, fun idle full => startShow_full check stored idle full⟩
    refine not.imp_right (Or.imp (fun ⟨link, trigger⟩ => ?_) fun ⟨running, holding⟩ => runsOrHolds_false held running holding)
    exact Bool.eq_false_iff.mpr fun may => ((restarts_iff origin).mp may).elim link fun ⟨n, o⟩ => trigger n o
  · exact start_refused tag ready few (startShow_of_check (checkStart_of_lt beyond))
  · exact start_refused tag ready few (startShow_of_check (checkStart_of_undefined inRange none))
  · exact start_refused tag ready few (startShow_of_check (checkStart_of_class inRange stored cls Origin.noConfusion))
  · exact start_refused tag ready few (startShow_of_check (checkStart_of_alarm inRange stored (Or.inl cls) alarm Origin.noConfusion))
  · exact start_refused tag ready few (startShow_of_check (checkStart_of_empty inRange stored (Or.inl cls) (Or.inl quiet) empty))
  · have check := checkStart_none (origin := .link) inRange stored (Or.inl cls) (Or.inl quiet) cues (Or.inl rfl)
    refine ⟨fun k r holds held not => start_refused tag ready few (startShow_already check stored holds ?_),
      fun idle full => start_refused tag ready few (startShow_full check stored idle full)⟩
    rcases not with plain | ⟨running, holding⟩
    · exact Or.inl (decide_eq_false (by omega))
    · exact Or.inr (Or.inr (runsOrHolds_false held running holding))

/-! ### The claim of a start (R28, R30, R31) -/

section
variable {p : Blocks} {id k : Nat} {origin : Origin} {restart : Bool} {sh : ShowRecord} (passes : StartPasses p id origin sh) (takes : Takes p id k)
include passes takes

/-- The slot taken has its claim where every channel's top entry is of a lower class (R28). -/
theorem claimable_taken_iff :
    claimable (setSlot k (some (SlotRec.taken id sh origin)) p) k = true ↔
      ∀ ch ∈ sh.channels, ∀ e, topEntry p ch = some e → e.cls.rank < sh.cls.rank :=
  claimable_iff (p := setSlot k (some (SlotRec.taken id sh origin)) p) (slotOf_setSlot_self k _ p takes.range) passes.stored

theorem startShow_claimed (lower : ∀ ch ∈ sh.channels, ∀ e, topEntry p ch = some e → e.cls.rank < sh.cls.rank) :
    startShow id origin restart p = (.accepted k .claimed,
      foresee (fun q => afterClaim pendingScan k id origin (grant pendingScan k q)) (setSlot k (some (takenAs id sh origin)) p)) := by
  rw [startShow_takes passes.check passes.stored takes]
  exact if_pos ((claimable_taken_iff passes takes).mpr lower)

variable (covered : ∃ ch ∈ sh.channels, ∃ e, topEntry p ch = some e ∧ sh.cls.rank ≤ e.cls.rank)
include covered

theorem not_claimable_taken : ¬ claimable (setSlot k (some (SlotRec.taken id sh origin)) p) k = true := fun claims => by
  obtain ⟨ch, listed, e, top, higher⟩ := covered
  exact Nat.not_lt.mpr higher ((claimable_taken_iff passes takes).mp claims ch listed e top)

theorem startShow_busy (refuses : sh.conflict = .refuse) : startShow id origin restart p = (.refused .channelBusy .claim, p) := by
  rw [startShow_takes passes.check passes.stored takes, takeSlot]
  simp only [if_neg (not_claimable_taken passes takes covered), refuses]

theorem startShow_waits (waits : sh.conflict = .wait) :
    startShow id origin restart p = (.accepted k (.pending p.map.waitCounter),
      { p with
        map := { p.map with waitOrder := p.map.waitOrder ++ [k], waitCounter := (p.map.waitCounter + 1) % 65536 }
        runner := { p.runner with slots := tset p.runner.slots k (some { takenAs id sh origin with waitEntry := some p.map.waitCounter }) } }) := by
  rw [startShow_takes passes.check passes.stored takes, takeSlot]
  simp only [if_neg (not_claimable_taken passes takes covered), waits]
  rfl

end

/-- Settles O18. The claim of the slot just taken fails at a top entry that is no lower, and the show's conflict policy says what follows. -/
theorem aFailedClaimWaitsOrIsRefused : Obligations.AFailedClaimWaitsOrIsRefused := by
  refine ⟨fun p id k origin restart sh _ passes takes covered => ⟨startShow_busy passes takes covered, startShow_waits passes takes covered⟩,
    fun s tag id option k sh ready few passes takes covered => ⟨fun refuses => ?_, fun waits => ?_⟩⟩
  · exact start_refused tag ready few (startShow_busy passes takes covered refuses)
  · rw [startShow_waits passes takes covered waits]
    exact start_ok tag ready few (startShow_waits passes takes covered waits)

/-! ### The show begins again (R48) -/

theorem beginAgain_eq {p : Blocks} {k : Nat} (origin : Origin) {r : SlotRec} {sh : ShowRecord} (h : slotOf p k = some r) (hs : showOf p r.showId = some sh) :
    beginAgain k origin p = begunAgain k origin r sh p := by
  rw [beginAgain, slotShow_of h hs]
  rfl

/-- The slot that holds a show holds that show (R45). -/
theorem showId_of_holding {p : Blocks} {id k : Nat} {r : SlotRec} (holds : slotHolding p id = some k) (h : slotOf p k = some r) : r.showId = id := by
  have found := List.find?_some holds
  simp only [h, decide_eq_true_iff] at found
  exact found

theorem startShow_begunAgain {p : Blocks} {id k : Nat} {origin : Origin} {sh : ShowRecord} {r : SlotRec} (may : origin = .link ∨ ∃ n, origin = .trigger n)
    (passes : StartPasses p id origin sh) (holds : slotHolding p id = some k) (h : slotOf p k = some r) (runs : r.state = .running ∨ r.state = .held) :
    startShow id origin true p = (.accepted k .restarted, begunAgain k origin r sh p) := by
  rw [startShow_restarts passes.check passes.stored holds rfl ((restarts_iff origin).mpr may) ((runsOrHolds_iff h).mpr runs),
    beginAgain_eq origin h ((showId_of_holding holds h).symm ▸ passes.stored)]

/-- Settles O20. The slot's own record and show are what it begins again with. -/
theorem aRestartBeginsAgain : Obligations.ARestartBeginsAgain :=
  ⟨fun _ _ _ _ _ _ may passes holds h runs => startShow_begunAgain may passes holds h runs, fun _ _ origin _ _ h hs => beginAgain_eq origin h hs,
    fun _ tag _ _ _ _ ready passes holds h runs =>
      start_ok tag ready (Nat.le_refl 1) (startShow_begunAgain (Or.inl rfl) passes holds h runs)⟩

/-! ### RELEASE (R60, R61) -/

section
variable {p : Blocks} {id : Nat}

theorem askRelease_of_lt (h : 63 < id) : askRelease id p = (.refused .badField, p) := if_pos h

theorem askRelease_of_undefined (h : id ≤ 63) (none : showOf p id = none) : askRelease id p = (.refused .noShow, p) := by
  simp only [askRelease, if_neg (Nat.not_lt.mpr h), none, Option.isNone_none, if_true, refuseAs]

variable (h : id ≤ 63) (stored : showOf p id ≠ none)
include h stored

theorem askRelease_of_not_held (none : heldSlot p id = none) : askRelease id p = (.refused .notHeld, p) := by
  have defined : (showOf p id).isNone = false := Bool.eq_false_iff.mpr fun e => stored (Option.isNone_iff_eq_none.mp e)
  simp only [askRelease, if_neg (Nat.not_lt.mpr h), defined, Bool.false_eq_true, if_false, none, refuseAs]

theorem askRelease_of_held {k : Nat} (held : heldSlot p id = some k) :
    askRelease id p = (.ok (.released k (reachedCue id k (releaseHold k p))), releaseHold k p) := by
  have defined : (showOf p id).isNone = false := Bool.eq_false_iff.mpr fun e => stored (Option.isNone_iff_eq_none.mp e)
  simp only [askRelease, if_neg (Nat.not_lt.mpr h), defined, Bool.false_eq_true, if_false, held]

end

theorem slotHolding_busy {p : Blocks} {id k : Nat} (h : slotHolding p id = some k) : ∃ r, slotOf p k = some r := by
  cases busy : slotOf p k with
  | some r => exact ⟨r, rfl⟩
  | none =>
    have found := List.find?_some h
    simp only [busy, Bool.false_eq_true] at found

theorem heldSlot_of_held {p : Blocks} {id k : Nat} {r : SlotRec} (holds : slotHolding p id = some k) (h : slotOf p k = some r) (held : r.state = .held) :
    heldSlot p id = some k := by
  simp only [heldSlot, holds, h, held, if_true]

theorem heldSlot_none {p : Blocks} {id : Nat} (h : ∀ k r, slotHolding p id = some k → slotOf p k = some r → r.state ≠ .held) : heldSlot p id = none := by
  unfold heldSlot
  cases holds : slotHolding p id with
  | none => rfl
  | some k =>
    obtain ⟨r, busy⟩ := slotHolding_busy holds
    simp only [busy, if_neg (h k r holds busy)]

theorem releaseHold_eq {p : Blocks} {k : Nat} {r : SlotRec} (h : slotOf p k = some r) :
    releaseHold k p = afterHold k r p := by
  rw [releaseHold, h]
  rfl

/-- Settles O22. The reply reads the pointer of the slot as the release leaves it. -/
theorem releaseEndsTheHold : Obligations.ReleaseEndsTheHold := by
  intro s tag id ready
  refine ⟨fun beyond => ?_, fun inRange none => ?_, fun inRange stored notHeld => ?_, fun k r inRange stored holds busy held => ?_⟩
  · exact repliesRefused_of ready rfl (congrArg (answerWith tag 11) (askRelease_of_lt beyond))
  · exact repliesRefused_of ready rfl (congrArg (answerWith tag 11) (askRelease_of_undefined inRange none))
  · exact repliesRefused_of ready rfl (congrArg (answerWith tag 11) (askRelease_of_not_held inRange stored (heldSlot_none notHeld)))
  · have ask := askRelease_of_held inRange stored (heldSlot_of_held holds busy held)
    refine ⟨releaseHold k s.part, _, releaseHold_eq busy, repliesOk_of ready rfl (congrArg (answerWith tag 11) ask), fun r' reached same => ?_⟩
    simp only [reachedCue, reached, if_pos same]

end Sys2Proof.Machine

/-! SUPPORT. What firing, GO, launch groups, priming and regain leave as they were: the rest timers, what is foreseen and the wait order, beside every block that no slot operation touches. -/

namespace Sys2Proof.Machine

/-- Everything of `SlotsFrame`, the rest timers, what is foreseen of the action at hand, and the wait order. -/
structure RunFrame (p q : Blocks) : Prop where
  others : SlotsFrame p q
  rest : q.runner.rest = p.runner.rest
  foresight : q.runner.foresight = p.runner.foresight
  wait : q.map.waitOrder = p.map.waitOrder

namespace RunFrame

theorem refl (p : Blocks) : RunFrame p p := ⟨SlotsFrame.refl p, rfl, rfl, rfl⟩

theorem trans {p q r : Blocks} (a : RunFrame p q) (b : RunFrame q r) : RunFrame p r :=
  ⟨a.others.trans b.others, b.rest.trans a.rest, b.foresight.trans a.foresight, b.wait.trans a.wait⟩

theorem of_offer {p q : Blocks} (h : OfferFrame p q) : RunFrame p q := ⟨h.others, h.restTimers, h.foresight, by rw [h.map]⟩

theorem fold {α : Type} {f : Blocks → α → Blocks} (h : ∀ q a, RunFrame q (f q a)) (l : List α) (p : Blocks) : RunFrame p (l.foldl f p) := by
  induction l generalizing p with
  | nil => exact refl p
  | cons a l ih => exact (h p a).trans (ih (f p a))

/-! ### Updates -/

theorem setSlot (k : Nat) (r : Option SlotRec) (p : Blocks) : RunFrame p (setSlot k r p) := ⟨slotsFrame.fill k r p, rfl, rfl, rfl⟩

theorem modSlot (k : Nat) (f : SlotRec → SlotRec) (p : Blocks) : RunFrame p (modSlot k f p) := by
  cases h : slotOf p k with
  | none => rw [modSlot_none h]; exact refl p
  | some r => rw [modSlot_some h]; exact setSlot k _ p

theorem setGroups (gs : List LaunchGroup) (p : Blocks) : RunFrame p (setGroups gs p) := ⟨slotsFrame.groups gs p, rfl, rfl, rfl⟩

theorem clearLast (k : Nat) (p : Blocks) : RunFrame p (clearLast k p) := ⟨slotsFrame.forget k p, rfl, rfl, rfl⟩

theorem putNotice (n : Notice) (p : Blocks) : RunFrame p (putNotice n p) := of_offer (offerFrame_notice n p)

/-! ### Firing and GO -/

theorem fireTx (k ci ch : Nat) (kind : TxKind) (p : Blocks) : RunFrame p (fireTx k ci ch kind p) := by
  unfold Machine.fireTx
  split
  · exact refl p
  · exact of_offer (offerFrame_offerChannel _ _ _ _ _ _ p)

theorem fireAction (k ci : Nat) (sh : ShowRecord) (a : CueAction) (r : SlotRec) (p : Blocks) : RunFrame p (fireAction k ci sh a r p) := by
  have moved : RunFrame p (pointerTo k (ci + 1) p) := modSlot k _ p
  cases a with
  | play i clip lvl loop => exact moved.trans (fireTx _ _ _ _ _)
  | scene i scene fade => exact moved.trans (fireTx _ _ _ _ _)
  | level i lvl fade => exact moved.trans (fireTx _ _ _ _ _)
  | pulse i duration => exact moved.trans (fireTx _ _ _ _ _)
  | stop i => exact moved.trans (fireTx _ _ _ _ _)
  | hold timeout => exact (modSlot k _ p).trans (putNotice _ _)
  | mark number => exact moved.trans (putNotice _ _)

theorem fireCues (k : Nat) (sh : ShowRecord) (cs : List Cue) (ci : Nat) (p : Blocks) : RunFrame p (fireCues k sh cs ci p) := by
  induction cs generalizing ci p with
  | nil => exact refl p
  | cons c cs ih =>
    unfold Machine.fireCues
    split
    · exact refl p
    · split
      · exact (fireAction k ci sh c.action _ p).trans (ih _ _)
      · exact refl p

theorem fireDue (k : Nat) (p : Blocks) : RunFrame p (fireDue k p) := by
  unfold Machine.fireDue
  split
  · exact refl p
  · exact fireCues _ _ _ _ p

theorem goSlot (k : Nat) (p : Blocks) : RunFrame p (goSlot k p) := by
  unfold Machine.goSlot
  split
  · exact refl p
  · exact (((setSlot k _ p).trans (clearLast k _)).trans (putNotice _ _)).trans (fireDue k _)

/-! ### Launch groups -/

theorem leaveGroup (k : Nat) (p : Blocks) : RunFrame p (leaveGroup k p) := (setGroups _ p).trans (modSlot k _ _)

theorem deleteGroup (g : LaunchGroup) (p : Blocks) : RunFrame p (deleteGroup g p) :=
  (setGroups _ p).trans (fold (fun q k => modSlot k _ q) _ _)

theorem goIfReady (k : Nat) (p : Blocks) : RunFrame p (goIfReady k p) := by
  unfold Machine.goIfReady
  split
  · exact goSlot k p
  · exact refl p

theorem goGroup (g : LaunchGroup) (p : Blocks) : RunFrame p (goGroup g p) := (deleteGroup g p).trans (fold (fun q k => goIfReady k q) _ _)

theorem dissolveGroup (g : LaunchGroup) (p : Blocks) : RunFrame p (dissolveGroup g p) :=
  (deleteGroup g p).trans (fold (fun q k => goIfReady k q) _ _)

theorem settleGroups (p : Blocks) : RunFrame p (settleGroups p) := by
  refine fold (fun q g => ?_) _ p
  unfold settleGroup
  split
  · exact dissolveGroup g q
  · exact refl q

theorem considerGroup (leader : Nat) (p : Blocks) : RunFrame p (considerGroup leader p) := by
  unfold Machine.considerGroup
  split
  · exact refl p
  · split
    · exact dissolveGroup _ p
    · split
      · exact goGroup _ p
      · exact refl p

/-! ### Priming and regain -/

theorem slotReady (k : Nat) (p : Blocks) : RunFrame p (slotReady k p) := by
  unfold Machine.slotReady
  split
  · exact refl p
  · split
    · exact goSlot k p
    · exact (setSlot k _ p).trans (considerGroup _ _)

theorem enterPriming (k : Nat) (p : Blocks) : RunFrame p (enterPriming k p) := by
  unfold Machine.enterPriming
  split
  · exact refl p
  · have offered {q : Blocks} (cls : ShowClass) (chs : List (Nat × Nat)) : RunFrame q (offerPrepares k cls chs q) :=
      of_offer (offerFrame_offerPrepares k cls chs q)
    dsimp only
    split
    · exact ((setSlot k _ p).trans (offered _ _)).trans (slotReady k _)
    · exact (setSlot k _ p).trans (offered _ _)

theorem restoreChannel (k ch : Nat) (p : Blocks) : RunFrame p (restoreChannel k ch p) := by
  unfold Machine.restoreChannel
  split
  · split
    · exact refl p
    · exact of_offer (offerFrame_offerChannel _ _ _ _ _ _ p)
  · exact refl p

theorem primeAgain (k : Nat) (p : Blocks) : RunFrame p (primeAgain k p) := by
  unfold Machine.primeAgain
  split
  · exact refl p
  · exact (setSlot k _ p).trans (enterPriming k _)

theorem regainIfTop (k : Nat) (p : Blocks) : RunFrame p (regainIfTop k p) := by
  unfold Machine.regainIfTop
  split
  · exact refl p
  · split
    · unfold regainSlot
      split
      · exact refl p
      · split
        · exact ((setSlot k _ p).trans (putNotice _ _)).trans (fold (fun q ch => restoreChannel k ch q) _ _)
        · exact ((setSlot k _ p).trans (putNotice _ _)).trans (primeAgain k _)
    · exact refl p

/-! ### Endings -/

theorem offerEach (kind : TxKind) (cls : ShowClass) (chs : List Nat) (p : Blocks) : RunFrame p (offerEach kind cls chs p) :=
  of_offer (offerFrame_offerEach kind cls chs p)

theorem primeStops (k : Nat) (why : EndReason) (p : Blocks) : RunFrame p (primeStops k why p) := by
  unfold Machine.primeStops
  split
  · exact refl p
  · split
    · exact offerEach _ _ _ p
    · exact refl p

theorem exposeChannel (ch : Nat) (cls : ShowClass) (p : Blocks) : RunFrame p (exposeChannel ch cls p) := by
  have offered : RunFrame p (offerChannel ch .stop cls none none none p) := of_offer (offerFrame_offerChannel _ _ _ _ _ _ p)
  unfold Machine.exposeChannel
  split
  · exact offered
  · split
    · exact refl p
    · exact offered

theorem takeOff (ks : List Nat) (p : Blocks) : RunFrame p (takeOff ks p) := ⟨slotsFrame.off ks p, rfl, rfl, rfl⟩

/-- A removal with nothing waiting ends no slot and loads no timer. -/
theorem removal (ks : List Nat) {p : Blocks} (empty : p.map.waitOrder = []) : RunFrame p (removal pendingScan ks p) := by
  unfold Machine.removal
  split
  · have before := ((takeOff ks p).trans (settleGroups _)).trans
      ((fold (fun q (c : Nat × ShowClass) => exposeChannel c.1 c.2 q) (exposedBy p ks) _).trans (fold (fun q k => regainIfTop k q) slotNumbers _))
    dsimp only
    rw [pendingScan_empty (before.wait.trans empty)]
    exact before
  · exact settleGroups p

end RunFrame

end Sys2Proof.Machine

/-! SUPPORT. Endings at one event: one ending field by field, the slots tied to those that end, and the endings that an action records (R66, R67, R68, R83). -/

namespace Sys2Proof.Machine

/-! ### One ending (R66, R67) -/

theorem loadTimer_eq (n : Nat) : loadTimer n = if n = 0 then none else some { ticks := n * 100, fresh := true } := rfl

theorem restOf_stored {p : Blocks} {id : Nat} {sh : ShowRecord} (h : showOf p id = some sh) : restOf p id = sh.rest := by rw [restOf, h]

section
variable {p : Blocks} {k : Nat} {r : SlotRec} (h : slotOf p k = some r)
include h

theorem finishSlot_eq (why : EndReason) :
    finishSlot k why p = noteEnd k (loadRest r.showId (restOf p r.showId) (setSlot k none (leaveGroup k
      (putNotice (.showEnded k r.showId r.origin why (endStep why r) r.skipped) (leaveWait k p))))) := by rw [finishSlot, h]

/-- An ending field by field: nothing of the slot's own record is left. -/
theorem finishSlot_fields (why : EndReason) {sh : ShowRecord} (hs : showOf p r.showId = some sh) {q : Blocks}
    (hq : q = putNotice (.showEnded k r.showId r.origin why (if why = .yielded ∧ r.step = 2 then 1 else r.step) r.skipped)
      { p with map := { p.map with waitOrder := p.map.waitOrder.filter (fun j => j ≠ k) } }) :
    finishSlot k why p = { q with runner := { q.runner with
      foresight := match q.runner.foresight with
        | .idle => .idle
        | .recording ks => .recording (ks ++ [k])
        | .known ks => .known (ks.erase k)
      slots := tset q.runner.slots k none
      rest := tset q.runner.rest r.showId (if sh.rest = 0 then none else some { ticks := sh.rest * 100, fresh := true })
      groups := q.runner.groups.map (fun g =>
        { g with leaderIn := g.leaderIn && decide (g.leader ≠ k), followers := g.followers.filter (fun f => f ≠ k) }) } } := by
  have busy : slotOf q k = some r := by rw [hq, slotOf_putNotice]; exact h
  have ended : putNotice (.showEnded k r.showId r.origin why (endStep why r) r.skipped) (leaveWait k p) = q := hq.symm
  rw [finishSlot_eq h why, restOf_stored hs, ended, leaveGroup_some busy, setSlot_setSlot]
  unfold noteEnd Foresight.after
  cases f : q.runner.foresight <;> simp [loadRest, loadTimer, setSlot, setGroups, setForesight, f]

theorem primeStops_of_priming {why : EndReason} {sh : ShowRecord} (hs : showOf p r.showId = some sh) (priming : r.state = .priming) (other : why ≠ .yielded) :
    primeStops k why p =
      (((primeList p sh).map (fun c => c.1)).filter (fun ch => ch ∉ r.missing)).foldl (fun q ch => offerChannel ch .stop r.cls none none none q) p := by
  rw [primeStops, slotShow_of h hs]
  simp only [priming, other, ne_eq, not_false_eq_true, and_self, if_true, offerEach, List.contains_eq_mem, decide_not]

theorem primeStops_of_other {why : EndReason} {sh : ShowRecord} (hs : showOf p r.showId = some sh) (other : r.state ≠ .priming ∨ why = .yielded) :
    primeStops k why p = p := by
  rw [primeStops, slotShow_of h hs]
  exact if_neg fun c => other.elim (absurd c.1) (absurd · c.2)

end

/-! ### What an ending records and loads -/

theorem endOne_store (k : Nat) (why : EndReason) (p : Blocks) : (endOne k why p).store = p.store := (slotsFrame.endOne k why p).store

theorem primeStops_offers (k : Nat) (why : EndReason) (p : Blocks) : OfferFrame p (primeStops k why p) := by
  unfold primeStops
  split
  · exact OfferFrame.refl p
  · split
    · exact offerFrame_offerEach _ _ _ p
    · exact OfferFrame.refl p

/-- The ending of a busy slot is recorded, and its show's rest is loaded; the rest of another show stays. -/
theorem endOne_ended {p : Blocks} {k : Nat} {r : SlotRec} (why : EndReason) (h : slotOf p k = some r) :
    (endOne k why p).runner.foresight = p.runner.foresight.after k ∧
      (endOne k why p).runner.rest = tset p.runner.rest r.showId (loadTimer (restOf p r.showId)) := by
  have frame := RunFrame.primeStops k why p
  have offered := primeStops_offers k why p
  have same := offered.showId k
  rw [h, Option.map_some] at same
  obtain ⟨r', busy, named⟩ := Option.map_eq_some_iff.mp same
  have left : ∀ q : Blocks, (leaveGroup k q).runner.foresight = q.runner.foresight ∧ (leaveGroup k q).runner.rest = q.runner.rest := fun q =>
    ⟨(RunFrame.leaveGroup k q).foresight, (RunFrame.leaveGroup k q).rest⟩
  have rest : restOf (primeStops k why p) r'.showId = restOf p r.showId := by rw [named]; unfold restOf showOf; rw [frame.others.store]
  rw [endOne, finishSlot_eq busy why, rest, named]
  simp only [noteEnd, setForesight_foresight, setForesight_rest, loadRest_rest, loadRest_foresight, setSlot_foresight, setSlot_rest, (left _).1, (left _).2,
    putNotice_runner, leaveWait_runner]
  exact ⟨by rw [frame.foresight], by rw [frame.rest]⟩

/-- A FREE slot has no ending. -/
theorem endOne_free {p : Blocks} {k : Nat} (why : EndReason) (h : slotOf p k = none) : endOne k why p = p := by
  have still : primeStops k why p = p := by rw [primeStops, slotShow, h]
  rw [endOne, still, finishSlot, h]

theorem slotOf_leaveGroup_ne {k j : Nat} (ne : k ≠ j) (p : Blocks) : slotOf (leaveGroup k p) j = slotOf p j := by
  cases h : slotOf p k with
  | none =>
    have free : ∀ gs, slotOf (setGroups gs p) k = none := fun _ => h
    unfold leaveGroup
    rw [modSlot_none (free _)]
    rfl
  | some r => rw [leaveGroup_some h, slotOf_setSlot_ne _ _ _ _ ne]; rfl

/-- An ending leaves the other slots their shows. -/
theorem endOne_other_show {k j : Nat} (ne : k ≠ j) (why : EndReason) (p : Blocks) :
    (slotOf (endOne k why p) j).map SlotRec.showId = (slotOf p j).map SlotRec.showId := by
  cases h : slotOf p k with
  | none => rw [endOne_free why h]
  | some r =>
    have offered := primeStops_offers k why p
    obtain ⟨r', busy⟩ : ∃ r', slotOf (primeStops k why p) k = some r' := by
      have same := offered.showId k
      rw [h, Option.map_some] at same
      exact (Option.map_eq_some_iff.mp same).imp fun _ x => x.1
    rw [← offered.showId j, endOne, finishSlot_eq busy why]
    have noted : ∀ i n q, slotOf (noteEnd k (loadRest i n q)) j = slotOf q j := fun _ _ _ => rfl
    have left : ∀ q, slotOf (leaveWait k q) j = slotOf q j := fun _ => rfl
    rw [noted, slotOf_setSlot_ne _ _ _ _ ne, slotOf_leaveGroup_ne ne, slotOf_putNotice, left]

/-! ### Endings at one event -/

/-- The endings of one event, each in its turn. -/
def endAll (ends : List (Nat × EndReason)) (p : Blocks) : Blocks := ends.foldl (fun q e => endOne e.1 e.2 q) p

theorem endAll_cons (e : Nat × EndReason) (ends : List (Nat × EndReason)) (p : Blocks) : endAll (e :: ends) p = endAll ends (endOne e.1 e.2 p) := rfl

theorem endAll_quiet (ends : List (Nat × EndReason)) (p : Blocks) : Quieter p (endAll ends p) :=
  quieter.fold (fun q (e : Nat × EndReason) => endOne e.1 e.2 q) (fun q _ => quieter.endOne _ _ q) ends p

/-- Each of several busy slots that end at one event is recorded, in order. -/
theorem endAll_records (ends : List (Nat × EndReason)) {p : Blocks} {ks : List Nat} (recording : p.runner.foresight = .recording ks)
    (once : (ends.map Prod.fst).Nodup) (busy : ∀ k ∈ ends.map Prod.fst, slotOf p k ≠ none) :
    (endAll ends p).runner.foresight = .recording (ks ++ ends.map Prod.fst) := by
  induction ends generalizing p ks with
  | nil => rw [List.map_nil, List.append_nil]; exact recording
  | cons e ends ih =>
    rw [List.map_cons, List.nodup_cons] at once
    rw [List.map_cons, List.forall_mem_cons] at busy
    obtain ⟨r, holds⟩ := Option.ne_none_iff_exists'.mp busy.1
    have ended := (endOne_ended e.2 holds).1
    rw [recording] at ended
    have later : ∀ k ∈ ends.map Prod.fst, slotOf (endOne e.1 e.2 p) k ≠ none := by
      intro k member free
      have other := endOne_other_show (fun same : e.1 = k => once.1 (same ▸ member)) e.2 p
      rw [free, Option.map_none, eq_comm, Option.map_eq_none_iff] at other
      exact busy.2 k member other
    rw [endAll_cons, ih ended once.2 later, List.map_cons, List.append_assoc, List.singleton_append]

/-- A show whose rest is loaded keeps it loaded through other endings, of its own slots too. -/
theorem endAll_rest (ends : List (Nat × EndReason)) {p : Blocks} {id : Nat} (low : id < 64)
    (loaded : (tget p.runner.rest id : Option Timer) = loadTimer (restOf p id)) :
    (tget (endAll ends p).runner.rest id : Option Timer) = loadTimer (restOf p id) := by
  induction ends generalizing p with
  | nil => exact loaded
  | cons e ends ih =>
    have same : restOf (endOne e.1 e.2 p) id = restOf p id := by unfold restOf showOf; rw [endOne_store]
    rw [endAll_cons, ← same]
    apply ih
    rw [same]
    cases h : slotOf p e.1 with
    | none => rw [endOne_free e.2 h]; exact loaded
    | some r =>
      rw [(endOne_ended e.2 h).2]
      rcases eq_or_ne r.showId id with rfl | ne
      · exact tget_tset_self _ _ _ low
      · rw [tget_tset_ne _ _ _ _ ne]; exact loaded

/-- Slots that end at one event: each in order, then those tied to any of them, and one removal (R66, R83; log entry 17). -/
theorem endSlotsWith_eq (ends : List (Nat × EndReason)) (p : Blocks) :
    endSlotsWith pendingScan ends p =
      removal pendingScan (ends.map (fun e => e.1) ++ tiedTo p (ends.map (fun e => e.1)))
        (endAll (ends ++ (tiedTo p (ends.map (fun e => e.1))).map (fun j => (j, EndReason.leader))) p) := by
  unfold endSlotsWith endAll
  simp only [List.map_append, List.map_map, Function.comp_def, List.map_id']

/-- With nothing waiting, what follows the endings of an event leaves the rest timers and what they recorded. -/
theorem endSlotsWith_frame (ends : List (Nat × EndReason)) {p : Blocks} (empty : p.map.waitOrder = []) :
    RunFrame (endAll (ends ++ (tiedTo p (ends.map (fun e => e.1))).map (fun j => (j, EndReason.leader))) p) (endSlotsWith pendingScan ends p) := by
  rw [endSlotsWith_eq]
  exact RunFrame.removal _ ((endAll_quiet _ p).wait empty)

theorem tiedTo_setForesight (f : Foresight) (p : Blocks) (js : List Nat) : tiedTo (setForesight f p) js = tiedTo p js := rfl

theorem tiedTo_busy {p : Blocks} {js : List Nat} {k : Nat} (h : k ∈ tiedTo p js) : slotOf p k ≠ none := by
  obtain ⟨_, _, j, _, tied⟩ := (mem_tiedTo p js k).mp h
  obtain ⟨r, _, busy, _⟩ := (tiedToSlot_iff p j k).mp tied
  rw [busy]
  exact Option.some_ne_none r

theorem tiedTo_sorted (p : Blocks) (js : List Nat) : (tiedTo p js).Pairwise (· < ·) := List.pairwise_lt_range.filter _

/-- A trial run records the slots named and those tied to them, before the removal. -/
theorem endAll_trial {p : Blocks} (ends : List (Nat × EndReason)) (once : (ends.map (fun e => e.1)).Nodup)
    (busy : ∀ k ∈ ends.map (fun e => e.1), slotOf p k ≠ none) :
    (endAll (ends ++ (tiedTo p (ends.map (fun e => e.1))).map (fun j => (j, EndReason.leader))) (setForesight (.recording []) p)).runner.foresight =
      .recording (ends.map (fun e => e.1) ++ tiedTo p (ends.map (fun e => e.1))) := by
  have firsts : (ends ++ (tiedTo p (ends.map (fun e => e.1))).map (fun j => (j, EndReason.leader))).map Prod.fst =
      ends.map (fun e => e.1) ++ tiedTo p (ends.map (fun e => e.1)) := by
    simp only [List.map_append, List.map_map, Function.comp_def, List.map_id']
  rw [endAll_records (p := setForesight (.recording []) p) (ks := []) _ rfl, firsts, List.nil_append]
  · rw [firsts]
    exact once.append ((tiedTo_sorted p _).imp Nat.ne_of_lt) fun k given tied => ((mem_tiedTo p _ k).mp tied).2.1 given
  · rw [firsts]
    exact fun k member => (List.mem_append.mp member).elim (busy k) tiedTo_busy

/-- With nothing waiting, the endings of an event are the slots named and those tied to them. -/
theorem endingsOf_endSlotsWith {p : Blocks} (ends : List (Nat × EndReason)) (empty : p.map.waitOrder = []) (once : (ends.map (fun e => e.1)).Nodup)
    (busy : ∀ k ∈ ends.map (fun e => e.1), slotOf p k ≠ none) :
    endingsOf (endSlotsWith pendingScan ends) p = ends.map (fun e => e.1) ++ tiedTo p (ends.map (fun e => e.1)) := by
  unfold endingsOf
  rw [(endSlotsWith_frame ends (p := setForesight (.recording []) p) empty).foresight, tiedTo_setForesight, endAll_trial ends once busy]
  rfl

/-- Whatever waits, the slots named and those tied to them are among the endings of the event. -/
theorem mem_endingsOf_endSlotsWith {p : Blocks} (ends : List (Nat × EndReason)) (once : (ends.map (fun e => e.1)).Nodup)
    (busy : ∀ k ∈ ends.map (fun e => e.1), slotOf p k ≠ none) :
    ∀ k ∈ ends.map (fun e => e.1) ++ tiedTo p (ends.map (fun e => e.1)), k ∈ endingsOf (endSlotsWith pendingScan ends) p := by
  obtain ⟨more, recorded, _⟩ := records.removal _ records.pendingScan
    (ends.map (fun e => e.1) ++ tiedTo p (ends.map (fun e => e.1))) _ _ (endAll_trial ends once busy)
  intro k member
  unfold endingsOf
  rw [endSlotsWith_eq, tiedTo_setForesight, recorded]
  exact List.mem_append_left _ member

end Sys2Proof.Machine

/-! The obligations about STOP and STOP-GALLERY, and the endings at one event. -/

namespace Sys2Proof.Machine

/-! ### STOP (R68) -/

section
variable {p : Blocks} {id : Nat}

theorem askStop_of_lt (h : 63 < id) : askStop id p = (.refused .badField, p) := if_pos h

theorem askStop_of_undefined (h : id ≤ 63) (none : showOf p id = none) : askStop id p = (.refused .noShow, p) := by
  simp only [askStop, if_neg (Nat.not_lt.mpr h), none, Option.isNone_none, if_true, refuseAs]

variable {sh : ShowRecord} (h : id ≤ 63) (stored : showOf p id = some sh)
include h stored

theorem askStop_of_not_held (unheld : slotHolding p id = none) : askStop id p = (.ok (.stopped none), p) := by
  simp only [askStop, if_neg (Nat.not_lt.mpr h), stored, Option.isNone_some, Bool.false_eq_true, if_false, unheld]

theorem askStop_of_holding {k : Nat} {r : SlotRec} (holds : slotHolding p id = some k) (busy : slotOf p k = some r) :
    askStop id p = (.ok (.stopped (some (k, r.state))), endSlots [(k, .stopped)] p) := by
  simp only [askStop, if_neg (Nat.not_lt.mpr h), stored, Option.isNone_some, Bool.false_eq_true, if_false, holds, busy]

end

/-- With nothing waiting, a show whose slot ends rests (R69). -/
theorem endSlots_rest {p : Blocks} {k : Nat} {r : SlotRec} {sh : ShowRecord} (why : EndReason) (busy : slotOf p k = some r)
    (stored : showOf p r.showId = some sh) (empty : p.map.waitOrder = []) :
    (tget (endSlots [(k, why)] p).runner.rest r.showId : Option Timer) = loadTimer sh.rest := by
  have low : r.showId < 64 := showOf_lt stored
  rw [← restOf_stored stored]
  suffices H : ∀ f, (tget (endSlotsWith pendingScan [(k, why)] (setForesight f p)).runner.rest r.showId : Option Timer) = loadTimer (restOf p r.showId) from
    H _
  intro f
  rw [(endSlotsWith_frame [(k, why)] (p := setForesight f p) empty).rest, List.singleton_append, endAll_cons]
  have ended := (endOne_ended (p := setForesight f p) why busy).2
  have same : restOf (endOne k why (setForesight f p)) r.showId = restOf p r.showId := by unfold restOf showOf; rw [endOne_store]; rfl
  rw [← same]
  apply endAll_rest _ low
  rw [same, ended]
  exact tget_tset_self _ _ _ low

theorem tiedTo_iff (p : Blocks) (js : List Nat) (k : Nat) : k ∈ tiedTo p js ↔
    k ∉ js ∧ ∃ r sh, slotOf p k = some r ∧ showOf p r.showId = some sh ∧ sh.tied = true ∧
      ∃ j ∈ js, ∃ rj, slotOf p j = some rj ∧ r.origin = .leader j ∧ sh.leader = some rj.showId := by
  rw [mem_tiedTo]
  constructor
  · rintro ⟨_, other, j, member, tied⟩
    obtain ⟨r, sh, busy, stored, isTied, rj, leads, origin, leader⟩ := (tiedToSlot_iff p j k).mp tied
    exact ⟨other, r, sh, busy, stored, isTied, j, member, rj, leads, origin, leader⟩
  · rintro ⟨other, r, sh, busy, stored, isTied, j, member, rj, leads, origin, leader⟩
    exact ⟨slotOf_lt busy, other, j, member, (tiedToSlot_iff p j k).mpr ⟨r, sh, busy, stored, isTied, rj, leads, origin, leader⟩⟩

/-- Settles O21. The rest of the show is loaded at the first ending; a tied slot of the same show loads the same value. -/
theorem stopEndsTheSlot : Obligations.StopEndsTheSlot := by
  refine ⟨fun s tag id ready => ⟨fun beyond => ?_, fun inRange none => ?_, fun sh inRange stored => ⟨fun none => ?_, fun k r holds busy => ?_⟩⟩,
    fun p ends tied same => ⟨rfl, ?_⟩, fun p js => ⟨tiedTo_sorted p js, tiedTo_iff p js⟩,
    fun p k why r sh busy stored => ⟨fun other => ?_, fun priming other => ?_, _, rfl, finishSlot_fields busy why stored rfl⟩⟩
  · exact repliesRefused_of ready rfl (congrArg (answerWith tag 10) (askStop_of_lt beyond))
  · exact repliesRefused_of ready rfl (congrArg (answerWith tag 10) (askStop_of_undefined inRange none))
  · exact repliesOk_of ready rfl (congrArg (answerWith tag 10) (askStop_of_not_held inRange stored none))
  · refine ⟨_, rfl, repliesOk_of ready rfl (congrArg (answerWith tag 10) (askStop_of_holding inRange stored holds busy)), slotsFrame.endSlots _ _, fun empty => ?_⟩
    obtain rfl := showId_of_holding holds busy
    obtain ⟨free, gone, quiet⟩ := endSlots_quiet k .stopped s.part empty
    exact ⟨free, gone, endSlots_rest .stopped busy stored empty, quiet.free⟩
  · rw [endSlotsWith_eq, same]
    rfl
  · rw [endOne, primeStops_of_other busy stored other]
  · rw [endOne, primeStops_of_priming busy stored priming other]

/-! ### STOP-GALLERY (R41) -/

theorem mem_gallerySlots (p : Blocks) (g k : Nat) : k ∈ gallerySlots p g ↔
    ∃ r sh ch e, slotOf p k = some r ∧ showOf p r.showId = some sh ∧ ch ∈ sh.channels ∧ channelEntry p ch = some e ∧ e.gallery = g := by
  unfold gallerySlots slotNumbers
  rw [List.mem_filter, List.mem_range]
  cases shows : slotShow p k with
  | none =>
    simp only [Bool.false_eq_true, and_false, false_iff]
    rintro ⟨r, sh, _, _, busy, stored, _⟩
    rw [slotShow_of busy stored] at shows
    exact nomatch shows
  | some x =>
    obtain ⟨r, sh⟩ := x
    obtain ⟨busy, stored⟩ := slotShow_some shows
    simp only [slotOf_lt busy, true_and, listsGallery, List.any_eq_true]
    constructor
    · rintro ⟨ch, listed, matched⟩
      cases entry : channelEntry p ch with
      | none => simp only [entry, Bool.false_eq_true] at matched
      | some e =>
        simp only [entry, decide_eq_true_iff] at matched
        exact ⟨r, sh, ch, e, busy, stored, listed, entry, matched⟩
    · rintro ⟨r', sh', ch, e, busy', stored', listed, entry, gallery⟩
      cases busy.symm.trans busy'
      cases stored.symm.trans stored'
      exact ⟨ch, listed, by simp only [entry, gallery, decide_true]⟩

theorem askStopGallery_of_lt {g : Nat} {p : Blocks} (h : 15 < g) : askStopGallery g p = (.refused .badField, p) := if_pos h

theorem askStopGallery_of_le {g : Nat} {p : Blocks} (h : g ≤ 15) : askStopGallery g p =
    (.ok (.galleryStopped g (endCounted ((gallerySlots p g).map (fun k => (k, EndReason.stopped))) p).1),
      endSlots ((gallerySlots p g).map (fun k => (k, EndReason.stopped))) p) := if_neg (Nat.not_lt.mpr h)

theorem settleGroups_none {p : Blocks} (none : p.runner.groups = []) : settleGroups p = p := by
  unfold settleGroups
  rw [none]
  rfl

theorem tiedTo_nil (p : Blocks) : tiedTo p [] = [] := List.eq_nil_iff_forall_not_mem.mpr fun k h => by
  obtain ⟨_, _, _, member, _⟩ := (mem_tiedTo p [] k).mp h
  exact nomatch member

/-- With no slot to take off and no launch group, a removal does nothing. -/
theorem removal_nothing {rescan : Blocks → Blocks} {p : Blocks} (none : p.runner.groups = []) : removal rescan [] p = p := by
  have noEntries : holdEntries p [] = false := Bool.eq_false_iff.mpr fun h => by
    obtain ⟨_, _, _, _, member⟩ := (holdEntries_iff p []).mp h
    exact nomatch member
  exact (if_neg (ne_true_of_eq_false noEntries)).trans (settleGroups_none none)

/-- With no slot to end and no launch group, an event ends nothing and does nothing. -/
theorem endSlotsWith_nothing {p : Blocks} (none : p.runner.groups = []) : endSlotsWith pendingScan [] p = p := by
  rw [endSlotsWith_eq, List.map_nil, tiedTo_nil]
  exact removal_nothing none

theorem endingsOf_nothing {p : Blocks} (none : p.runner.groups = []) : endingsOf (endSlotsWith pendingScan []) p = [] := by
  unfold endingsOf
  rw [endSlotsWith_nothing (p := setForesight (.recording []) p) none]
  rfl

theorem endSlots_nothing {p : Blocks} (none : p.runner.groups = []) (idle : p.runner.foresight = .idle) : endSlots [] p = p := by
  have nothing : ∀ f, endSlotsWith pendingScan [] (setForesight f p) = setForesight f p := fun f => endSlotsWith_nothing (p := setForesight f p) none
  unfold endSlots foresee
  rw [nothing]
  unfold setForesight
  rw [← idle]

/-- A list without repetitions is what is left of it without repetitions. -/
theorem eraseDups_of_nodup {ks : List Nat} (h : ks.Nodup) : ks.eraseDups = ks := by
  induction ks with
  | nil => rfl
  | cons k ks ih =>
    rw [List.nodup_cons] at h
    rw [List.eraseDups_cons, List.filter_eq_self.mpr, ih h.2]
    intro j member
    simpa using fun same : j = k => h.1 (same ▸ member)

/-- The slots that an event ends, counted each once: those named and those tied to them before the removal, and no more with nothing waiting (R41, R161). -/
theorem endCounted_spec {p : Blocks} {ks : List Nat} (why : EndReason) (sub : ks.Sublist (List.range 16)) (busy : ∀ k ∈ ks, slotOf p k ≠ none) :
    ∃ ended, ended = (endingsOf (endSlotsWith pendingScan (ks.map (fun k => (k, why)))) p).eraseDups ∧
      endCounted (ks.map (fun k => (k, why))) p = (ended.length, endSlots (ks.map (fun k => (k, why))) p) ∧
      ended.Nodup ∧ (∀ k ∈ ended, k < 16) ∧ (∀ k ∈ ks ++ tiedTo p ks, k ∈ ended) ∧ (p.map.waitOrder = [] → ended = ks ++ tiedTo p ks) ∧
      (ks = [] → p.runner.groups = [] → p.runner.foresight = .idle → ended = [] ∧ endSlots (ks.map (fun k => (k, why))) p = p) := by
  have once : ks.Nodup := sub.nodup List.nodup_range
  have firsts : (ks.map (fun k => (k, why))).map (fun e => e.1) = ks := by simp only [List.map_map, Function.comp_def, List.map_id']
  obtain ⟨ended, counts, distinct, slots, counted⟩ := endCounted_count (ks.map (fun k => (k, why))) p
  refine ⟨ended, counts, counted, distinct, slots, fun k member => ?_, fun empty => ?_, ?_⟩
  · rw [counts, List.mem_eraseDups]
    apply mem_endingsOf_endSlotsWith <;> rw [firsts] <;> assumption
  · rw [counts, endingsOf_endSlotsWith _ empty (firsts.symm ▸ once) (firsts.symm ▸ busy), firsts]
    exact eraseDups_of_nodup (once.append ((tiedTo_sorted _ _).imp Nat.ne_of_lt) fun k given tied => ((mem_tiedTo _ _ k).mp tied).2.1 given)
  · rintro rfl noGroups idle
    rw [counts, List.map_nil, endingsOf_nothing noGroups, endSlots_nothing noGroups idle]
    exact ⟨rfl, rfl⟩

/-- Settles O23. The trial run records the slots of the gallery and those tied to them before its removal; with nothing waiting the removal ends no more. -/
theorem stopGalleryEndsItsSlots : Obligations.StopGalleryEndsItsSlots := by
  intro s tag g ready
  refine ⟨fun beyond => repliesRefused_of ready rfl (congrArg (answerWith tag 8) (askStopGallery_of_lt beyond)), fun inRange => ?_⟩
  obtain ⟨ks, named⟩ : ∃ ks, gallerySlots s.part g = ks := ⟨_, rfl⟩
  have sub : ks.Sublist (List.range 16) := named ▸ List.filter_sublist
  have busy : ∀ k ∈ ks, slotOf s.part k ≠ none := by
    intro k member
    obtain ⟨r, _, _, _, holds, _⟩ := (mem_gallerySlots s.part g k).mp (named ▸ member)
    rw [holds]
    exact Option.some_ne_none r
  obtain ⟨ended, counts, counted, distinct, slots, among, quiet, nothing⟩ := endCounted_spec .stopped sub busy
  refine ⟨ks, sub, fun k => by rw [← named]; exact mem_gallerySlots s.part g k, _, ended, rfl, slotsFrame.endSlots _ _, counts, ?_, distinct, slots, among,
    quiet, nothing⟩
  have asked := askStopGallery_of_le (p := s.part) inRange
  rw [named, counted] at asked
  exact repliesOk_of ready rfl (congrArg (answerWith tag 8) asked)

end Sys2Proof.Machine

/-! The obligation about a claim of free channels, and what firing and GO leave of the slots and stacks. -/

namespace Sys2Proof.Machine

/-! ### What firing leaves (R52, R56) -/

/-- A slot's record but for what firing its cues may write: the pointer, a HOLD and its deadline, and the cues lost. -/
def SlotRec.unfired (r : SlotRec) : SlotRec :=
  { r with state := if r.state = .held then .running else r.state, pointer := 0, deadline := none, skipped := 0 }

theorem SlotRec.runs_of_unfired {r : SlotRec} (h : r.unfired.state = .running) : r.state = .running ∨ r.state = .held := by
  change (if r.state = .held then SlotState.running else r.state) = .running at h
  split at h
  · exact Or.inr ‹_›
  · exact Or.inl h

/-- What firing the cues of slot `k` leaves: the map, the other slots but for lost cues, and most of the slot's own record. -/
structure FireFrame (k : Nat) (p q : Blocks) : Prop where
  map : q.map = p.map
  own : (slotOf q k).map SlotRec.unfired = (slotOf p k).map SlotRec.unfired
  others : ∀ j, j ≠ k → (slotOf q j).map SlotRec.lossless = (slotOf p j).map SlotRec.lossless

namespace FireFrame

variable {k : Nat}

theorem refl (p : Blocks) : FireFrame k p p := ⟨rfl, rfl, fun _ _ => rfl⟩

theorem trans {p q r : Blocks} (a : FireFrame k p q) (b : FireFrame k q r) : FireFrame k p r :=
  ⟨b.map.trans a.map, b.own.trans a.own, fun j ne => (b.others j ne).trans (a.others j ne)⟩

theorem of_offer {p q : Blocks} (h : OfferFrame p q) : FireFrame k p q := by
  refine ⟨h.map, ?_, fun j _ => h.slots j⟩
  have same := congrArg (Option.map SlotRec.unfired) (h.slots k)
  rw [Option.map_map, Option.map_map] at same
  exact same

theorem modSlot {p : Blocks} {r : SlotRec} {f : SlotRec → SlotRec} (h : slotOf p k = some r) (keeps : (f r).unfired = r.unfired) :
    FireFrame k p (modSlot k f p) := by
  refine ⟨?_, ?_, fun j ne => by rw [slotOf_modSlot_ne _ _ _ _ ne.symm]⟩
  · rw [modSlot_some h]
    rfl
  · rw [modSlot_some h, slotOf_write h, h, Option.map_some, Option.map_some, keeps]

theorem pointerTo {p : Blocks} {r : SlotRec} (ci : Nat) (h : slotOf p k = some r) : FireFrame k p (pointerTo k ci p) := modSlot h rfl

theorem fireTx (ci ch : Nat) (kind : TxKind) (p : Blocks) : FireFrame k p (fireTx k ci ch kind p) := by
  unfold Machine.fireTx
  split
  · exact refl p
  · exact of_offer (offerFrame_offerChannel _ _ _ _ _ _ p)

theorem fireAction (ci : Nat) (sh : ShowRecord) (a : CueAction) {r : SlotRec} {p : Blocks} (h : slotOf p k = some r) (running : r.state = .running) :
    FireFrame k p (fireAction k ci sh a r p) := by
  have moved := pointerTo (ci + 1) h
  cases a with
  | play i clip lvl loop => exact moved.trans (fireTx _ _ _ _)
  | scene i scene fade => exact moved.trans (fireTx _ _ _ _)
  | level i lvl fade => exact moved.trans (fireTx _ _ _ _)
  | pulse i duration => exact moved.trans (fireTx _ _ _ _)
  | stop i => exact moved.trans (fireTx _ _ _ _)
  | hold timeout =>
    exact (modSlot h (by simp [SlotRec.unfired, running])).trans (of_offer (offerFrame_notice _ _))
  | mark number => exact moved.trans (of_offer (offerFrame_notice _ _))

theorem fireCues (sh : ShowRecord) (cs : List Cue) (ci : Nat) (p : Blocks) : FireFrame k p (fireCues k sh cs ci p) := by
  induction cs generalizing ci p with
  | nil => exact refl p
  | cons c cs ih =>
    unfold Machine.fireCues
    split
    · exact refl p
    next r busy =>
      split
      next due => exact (fireAction ci sh c.action busy due.1).trans (ih _ _)
      next => exact refl p

theorem fireDue (p : Blocks) : FireFrame k p (fireDue k p) := by
  unfold Machine.fireDue
  split
  · exact refl p
  · exact fireCues _ _ _ p

end FireFrame

/-! ### GO of one slot (R52) -/

/-- The record of a slot that takes GO. -/
def SlotRec.gone (r : SlotRec) : SlotRec :=
  { r with state := .running, step := 3, clock := 0, pointer := 0, primeTimer := none, group := none, began := true }

theorem ownersOf_clearLast (k : Nat) (p : Blocks) (ch : Nat) :
    ownersOf (clearLast k p) ch = (ownersOf p ch).map (fun e => if e.slot = k then { e with last := none } else e) :=
  ownersOf_tmap (p := p) (q := clearLast k p) (fun es => es.map (fun e => if e.slot = k then { e with last := none } else e)) rfl rfl ch

theorem goSlot_eq {p : Blocks} {k : Nat} {r : SlotRec} (h : slotOf p k = some r) :
    goSlot k p = fireDue k (putNotice (.showStarted k r.showId r.origin r.missing r.late) (clearLast k (setSlot k (some r.gone) p))) := by
  unfold goSlot
  rw [h]
  rfl

/-- GO leaves the slot RUNNING or HELD, and of the stacks and the other slots what firing leaves. -/
theorem goSlot_fires {p : Blocks} {k : Nat} {r : SlotRec} (h : slotOf p k = some r) :
    FireFrame k (clearLast k (setSlot k (some r.gone) p)) (goSlot k p) := by
  rw [goSlot_eq h]
  exact (FireFrame.of_offer (offerFrame_notice _ _)).trans (FireFrame.fireDue _)

theorem goSlot_own {p : Blocks} {k : Nat} {r : SlotRec} (h : slotOf p k = some r) :
    ∃ r', slotOf (goSlot k p) k = some r' ∧ r'.unfired = r.gone.unfired := by
  have own := (goSlot_fires h).own
  rw [show slotOf (clearLast k (setSlot k (some r.gone) p)) k = some r.gone from slotOf_write h _, Option.map_some] at own
  exact Option.map_eq_some_iff.mp own

theorem goSlot_others {p : Blocks} {k : Nat} {r : SlotRec} (h : slotOf p k = some r) {j : Nat} (ne : j ≠ k) :
    (slotOf (goSlot k p) j).map SlotRec.lossless = (slotOf p j).map SlotRec.lossless := by
  rw [(goSlot_fires h).others j ne]
  exact congrArg (Option.map SlotRec.lossless) (slotOf_setSlot_ne k j _ p ne.symm)

theorem goSlot_map {p : Blocks} {k : Nat} {r : SlotRec} (h : slotOf p k = some r) : (goSlot k p).map = (clearLast k p).map := (goSlot_fires h).map

/-! ### Entering priming (R49) -/

/-- The record of a slot that enters priming. -/
def SlotRec.priming (r : SlotRec) (awaited : List Nat) (timeout : Nat) : SlotRec :=
  { r with state := .priming, step := 1, missing := awaited, primeTimer := some (timeout * 10), began := true }

section
variable {p : Blocks} {k : Nat} {r : SlotRec} {sh : ShowRecord} (h : slotOf p k = some r) (hs : showOf p r.showId = some sh)
include h hs

/-- With channels to wait for, the slot stands at step 1, its channels missing. -/
theorem enterPriming_awaits (await : primeList p sh ≠ []) :
    OfferFrame (setSlot k (some (r.priming ((primeList p sh).map (fun c => c.1)) sh.primeTimeout)) p) (enterPriming k p) := by
  have awaits : (primeList p sh).isEmpty = false := Bool.eq_false_iff.mpr fun e => await (List.isEmpty_iff.mp e)
  unfold enterPriming
  rw [slotShow_of h hs]
  simp only [awaits, Bool.false_eq_true, if_false]
  exact offerFrame_offerPrepares _ _ _ _

/-- With none to wait for, a slot that is in no group takes GO at once. -/
theorem enterPriming_goes (ready : primeList p sh = []) (alone : r.group = none) :
    enterPriming k p = goSlot k (setSlot k (some (r.priming [] sh.primeTimeout)) p) := by
  have busy : slotOf (setSlot k (some (r.priming [] sh.primeTimeout)) p) k = some (r.priming [] sh.primeTimeout) := slotOf_write h _
  have goes : slotReady k (setSlot k (some (r.priming [] sh.primeTimeout)) p) = goSlot k (setSlot k (some (r.priming [] sh.primeTimeout)) p) := by
    unfold slotReady
    rw [busy]
    simp only [SlotRec.priming, alone]
  rw [← goes]
  unfold enterPriming
  rw [slotShow_of h hs]
  dsimp only
  rw [ready]
  rfl

end

/-! ### A granted claim (R29) -/

/-- The record of a slot whose claim is granted. -/
def SlotRec.granted (r : SlotRec) (awaited : List Nat) : SlotRec :=
  { r with state := .priming, step := 1, waitEntry := none, primeTimer := none, missing := awaited }

theorem coveredBy_eq (p : Blocks) (channels : List Nat) : coveredBy p channels =
    (channels.filterMap (fun ch => (topEntry p ch).bind (fun e => (slotOf p e.slot).bind (fun c =>
      if c.state = .priming ∨ c.state = .running ∨ c.state = .held then some e.slot else none)))).eraseDups := by
  unfold coveredBy
  congr 2
  funext ch
  cases topEntry p ch with
  | none => rfl
  | some e =>
    cases busy : slotOf p e.slot with
    | none => simp only [Option.bind_some, busy, Option.bind_none]
    | some c => cases state : c.state <;> simp [busy, state, SlotState.preemptible]

theorem yields_iff (p : Blocks) (k : Nat) :
    yields p k = true ↔ ∃ r sh, slotOf p k = some r ∧ showOf p r.showId = some sh ∧ sh.preempt = .yield := by
  unfold yields
  cases shows : slotShow p k with
  | none =>
    simp only [Bool.false_eq_true, false_iff]
    rintro ⟨r, sh, busy, stored, _⟩
    rw [slotShow_of busy stored] at shows
    exact nomatch shows
  | some x =>
    obtain ⟨r, sh⟩ := x
    obtain ⟨busy, stored⟩ := slotShow_some shows
    rw [decide_eq_true_iff]
    refine ⟨fun yield => ⟨r, sh, busy, stored, yield⟩, fun ⟨r', sh', busy', stored', yield⟩ => ?_⟩
    cases busy.symm.trans busy'
    cases stored.symm.trans stored'
    exact yield

theorem grant_eq {p : Blocks} {k : Nat} {r : SlotRec} {sh : ShowRecord} (h : slotOf p k = some r) (hs : showOf p r.showId = some sh) :
    grant pendingScan k p = removal pendingScan
      ((coveredBy p sh.channels).filter (yields p) ++ tiedTo p ((coveredBy p sh.channels).filter (yields p)))
      ((tiedTo p ((coveredBy p sh.channels).filter (yields p))).foldl (fun q c => endOne c .leader q)
        ((coveredBy p sh.channels).foldl (fun q c => preemptSlot k r.cls c q)
          (sh.channels.foldl (fun q ch => pushEntry k r ch q) (setSlot k (some (r.granted ((primeList p sh).map (fun c => c.1)))) p)))) := by
  unfold grant
  rw [slotShow_of h hs]
  rfl

theorem afterClaim_alone {p : Blocks} {id : Nat} {origin : Origin} (k : Nat) (other : origin ≠ .alarm)
    (alone : ∀ f sf, showOf p f = some sf → sf.leader ≠ some id) :
    afterClaim pendingScan k id origin p = if claimStands p k then enterPriming k p else p := by
  have none : followersOf p.store.settings id = [] := List.eq_nil_iff_forall_not_mem.mpr fun f member => by
    obtain ⟨sf, stored, leads⟩ := mem_followersOf.mp member
    exact alone f sf stored leads
  unfold afterClaim
  rw [none]
  cases origin with
  | alarm => exact absurd rfl other
  | link => rfl
  | trigger n => rfl
  | schedule n => rfl
  | leader j => rfl
  | showSet n => rfl
  | autostart => rfl

/-- Forgetting the last states of a slot's entries leaves the entries of the others. -/
theorem filter_forgotten (k : Nat) (es : List StackEntry) :
    (es.map (fun e => if e.slot = k then { e with last := none } else e)).filter (fun e => e.slot ≠ k) = es.filter (fun e => e.slot ≠ k) := by
  induction es with
  | nil => rfl
  | cons e es ih =>
    simp only [ne_eq, decide_not] at ih
    by_cases own : e.slot = k <;> simp [own, ih]

theorem enterPriming_alone {p : Blocks} {k : Nat} {r : SlotRec} {sh : ShowRecord} (h : slotOf p k = some r) (hs : showOf p r.showId = some sh)
    (alone : r.group = none) :
    ((enterPriming k p).map = p.map ∨ (enterPriming k p).map = (clearLast k p).map) ∧
      (∀ j, j ≠ k → (slotOf (enterPriming k p) j).map SlotRec.lossless = (slotOf p j).map SlotRec.lossless) ∧
      ∃ r', slotOf (enterPriming k p) k = some r' ∧
        (primeList p sh = [] → r'.unfired = (r.priming [] sh.primeTimeout).gone.unfired) ∧
        (primeList p sh ≠ [] → r'.lossless = (r.priming ((primeList p sh).map (fun c => c.1)) sh.primeTimeout).lossless) := by
  by_cases ready : primeList p sh = []
  · have primed : slotOf (setSlot k (some (r.priming [] sh.primeTimeout)) p) k = some (r.priming [] sh.primeTimeout) := slotOf_write h _
    rw [enterPriming_goes h hs ready alone]
    obtain ⟨r', busy, left⟩ := goSlot_own primed
    refine ⟨Or.inr (goSlot_map primed), fun j ne => ?_, r', busy, fun _ => left, fun await => absurd ready await⟩
    rw [goSlot_others primed ne, slotOf_setSlot_ne _ _ _ _ ne.symm]
  · have offered := enterPriming_awaits h hs ready
    have own := offered.slots k
    rw [slotOf_write h, Option.map_some] at own
    obtain ⟨r', busy, left⟩ := Option.map_eq_some_iff.mp own
    refine ⟨Or.inl offered.map, fun j ne => ?_, r', busy, fun goes => absurd goes ready, fun _ => left⟩
    rw [offered.slots j, slotOf_setSlot_ne _ _ _ _ ne.symm]

/-- A claim of channels that nobody owns pushes its entries and does no more, where no launch group stands. -/
theorem grant_free {p : Blocks} {k : Nat} {r : SlotRec} {sh : ShowRecord} (h : slotOf p k = some r) (hs : showOf p r.showId = some sh)
    (free : ∀ ch ∈ sh.channels, ownersOf p ch = []) (noGroups : p.runner.groups = []) :
    grant pendingScan k p =
      sh.channels.foldl (fun q ch => pushEntry k r ch q) (setSlot k (some (r.granted ((primeList p sh).map (fun c => c.1)))) p) := by
  have uncovered : coveredBy p sh.channels = [] := by
    have tops : sh.channels.filterMap (fun ch => (topEntry p ch).bind (fun e => (slotOf p e.slot).bind (fun c =>
        if c.state = .priming ∨ c.state = .running ∨ c.state = .held then some e.slot else none))) = [] :=
      List.filterMap_eq_nil_iff.mpr fun ch listed => by rw [topEntry, free ch listed]; rfl
    rw [coveredBy_eq, tops]
    rfl
  rw [grant_eq h hs, uncovered, List.filter_nil, tiedTo_nil]
  refine removal_nothing ?_
  obtain ⟨m, pushed⟩ := pushes_map_only k r sh.channels (setSlot k (some (r.granted ((primeList p sh).map (fun c => c.1)))) p)
  rw [List.foldl_nil, List.foldl_nil, pushed]
  exact noGroups

/-- What follows the grant of a claim for channels that nobody owns: the entries, the slot's record, and what stays. -/
theorem grantedFree_spec {p : Blocks} {k : Nat} {r : SlotRec} {sh : ShowRecord} (h : slotOf p k = some r) (hs : showOf p r.showId = some sh)
    (free : ∀ ch ∈ sh.channels, ch < 128 ∧ ownersOf p ch = []) (once : sh.channels.Nodup) (noGroups : p.runner.groups = []) (alone : r.group = none)
    {q : Blocks} (hq : q = enterPriming k (grant pendingScan k p)) :
    (grant pendingScan k p).store = p.store ∧ claimStands (grant pendingScan k p) k = true ∧
      (∃ r', slotOf q k = some r' ∧
        (primeList p sh = [] → r'.unfired = ((r.granted []).priming [] sh.primeTimeout).gone.unfired) ∧
        (primeList p sh ≠ [] → r'.lossless = ((r.granted []).priming ((primeList p sh).map (fun c => c.1)) sh.primeTimeout).lossless)) ∧
      (∀ ch ∈ sh.channels, ∃ uid, ownersOf q ch = [{ cls := r.cls, slot := k, showId := r.showId, last := none, uid := uid }]) ∧
      (∀ ch, ch ∉ sh.channels → (ownersOf q ch).filter (fun e => e.slot ≠ k) = (ownersOf p ch).filter (fun e => e.slot ≠ k)) ∧
      q.map.waitOrder = p.map.waitOrder ∧
      (∀ j, j ≠ k → (slotOf q j).map SlotRec.lossless = (slotOf p j).map SlotRec.lossless) ∧ q.runner.rest = p.runner.rest := by
  obtain ⟨g, granted⟩ : ∃ g, g = r.granted ((primeList p sh).map (fun c => c.1)) := ⟨_, rfl⟩
  obtain ⟨owners, uid, _, pushed, unlisted, listed⟩ := pushEntries k r sh.channels (setSlot k (some g) p)
  have grants := grant_free h hs (fun ch member => (free ch member).2) noGroups
  rw [← granted, pushed] at grants
  obtain ⟨p1, written⟩ : ∃ p1, p1 = { setSlot k (some g) p with map := { (setSlot k (some g) p).map with owners := owners, nextUid := uid } } := ⟨_, rfl⟩
  rw [← written] at grants
  rw [grants] at hq ⊢
  have busy : slotOf p1 k = some g := by rw [written]; exact slotOf_write h _
  have other : ∀ j, j ≠ k → slotOf p1 j = slotOf p j := fun j ne => by rw [written]; exact slotOf_setSlot_ne _ _ _ _ ne.symm
  have stored : showOf p1 g.showId = some sh := by rw [written, granted]; exact hs
  have same : primeList p1 sh = primeList p sh := by rw [written]; rfl
  have stack : ∀ ch, ownersOf p1 ch = tget owners ch := fun ch => by rw [written]; rfl
  have entries : ∀ ch ∈ sh.channels, ∃ n, ownersOf p1 ch = [{ cls := r.cls, slot := k, showId := r.showId, last := none, uid := n }] := by
    intro ch member
    obtain ⟨n, _, _, top⟩ := listed once (fun c m => (free c m).1) ch member
    refine ⟨n, by rw [stack, top, show ownersOf (setSlot k (some g) p) ch = [] from (free ch member).2]⟩
  obtain ⟨after, others, r', runs, goes, awaits⟩ := enterPriming_alone busy stored (by rw [granted]; exact alone)
  have frame := RunFrame.enterPriming k p1
  rw [same] at goes awaits
  have either : ∀ ch, ownersOf q ch = ownersOf p1 ch ∨ ownersOf q ch = ownersOf (clearLast k p1) ch := fun ch =>
    after.imp (fun e => by rw [hq, ownersOf, e]; rfl) (fun e => by rw [hq, ownersOf, e]; rfl)
  refine ⟨by rw [written]; rfl, (claimStands_iff p1 k).mpr ⟨g, busy, by rw [granted]; exact ⟨rfl, rfl, rfl⟩⟩, ⟨r', by rw [hq]; exact runs, ?_, ?_⟩, ?_, ?_, ?_, ?_, ?_⟩
  · intro ready
    rw [goes ready, granted, ready]
    rfl
  · intro await
    rw [awaits await, granted]
    rfl
  · intro ch member
    obtain ⟨n, top⟩ := entries ch member
    refine ⟨n, (either ch).elim (fun e => e.trans top) fun e => ?_⟩
    rw [e, ownersOf_clearLast, top, List.map_singleton, if_pos rfl]
  · intro ch member
    have below : ownersOf p1 ch = ownersOf p ch := (stack ch).trans (unlisted ch member)
    rcases either ch with e | e
    · rw [e, below]
    · rw [e, ownersOf_clearLast, below]
      exact filter_forgotten k (ownersOf p ch)
  · rw [hq, frame.wait, written]
    rfl
  · intro j ne
    rw [hq, others j ne, other j ne]
  · rw [hq, frame.rest, written]
    rfl

/-- Settles O19. With the channels free nothing is covered, so the grant pushes the entries and the slot enters priming. -/
theorem aClaimOfFreeChannelsIsGranted : Obligations.AClaimOfFreeChannelsIsGranted := by
  refine ⟨fun p id k origin restart sh other passes takes free once alone noGroups => ?_,
    fun p id k origin restart sh _ passes takes lower => startShow_claimed passes takes lower,
    fun s tag id option k sh ready few passes takes lower => by
      rw [startShow_claimed passes takes lower]
      exact start_ok tag ready few (startShow_claimed passes takes lower),
    fun p k r sh busy stored once range => ?_, fun p k id origin other alone => ⟨fun stands => ?_, fun gone => ?_⟩, claimStands_iff⟩
  · have lower : ∀ ch ∈ sh.channels, ∀ e, topEntry p ch = some e → e.cls.rank < sh.cls.rank := by
      intro ch member e top
      rw [topEntry, (free ch member).2] at top
      exact nomatch top
    have starts := startShow_claimed (restart := restart) passes takes lower
    have frame : SlotsFrame p (startShow id origin restart p).2 := slotsFrame.startShow id origin restart p
    obtain ⟨f, known⟩ : ∃ f, f = Foresight.known (endingsOf (fun q => afterClaim pendingScan k id origin (grant pendingScan k q))
      (setSlot k (some (takenAs id sh origin)) p)) := ⟨_, rfl⟩
    obtain ⟨p0, taken⟩ : ∃ p0, p0 = setForesight f (setSlot k (some (takenAs id sh origin)) p) := ⟨_, rfl⟩
    have busy : slotOf p0 k = some (takenAs id sh origin) := by rw [taken]; exact slotOf_setSlot_self k _ p takes.range
    have stored : showOf p0 (takenAs id sh origin).showId = some sh := by rw [taken]; exact passes.stored
    have others : ∀ j, j ≠ k → slotOf p0 j = slotOf p j := fun j ne => by rw [taken]; exact slotOf_setSlot_ne _ _ _ _ ne.symm
    obtain ⟨store, stands, ⟨r, runs, goes, awaits⟩, listed, unlisted, wait, same, rest⟩ := grantedFree_spec busy stored
      (by rw [taken]; exact free) once (by rw [taken]; exact noGroups) rfl rfl
    have follows : afterClaim pendingScan k id origin (grant pendingScan k p0) = enterPriming k (grant pendingScan k p0) := by
      rw [afterClaim_alone k other, if_pos stands]
      intro j sf leads
      refine alone j sf (Eq.trans ?_ leads)
      rw [showOf, showOf, store, taken]
      rfl
    have primes : primeList p0 sh = primeList p sh := by rw [taken]; rfl
    rw [primes] at goes awaits
    have ends : startShow id origin restart p = (.accepted k .claimed, setForesight .idle (enterPriming k (grant pendingScan k p0))) := by
      rw [← follows, starts, taken, known]
      rfl
    rw [ends] at frame
    refine ⟨_, r, ends, runs, ?_⟩
    have kept : r.showId = id ∧ r.cls = sh.cls ∧ r.origin = origin ∧ r.late = false ∧ r.group = none := by
      by_cases ready : primeList p sh = []
      · have same := goes ready
        exact ⟨congrArg SlotRec.showId same, congrArg SlotRec.cls same, congrArg SlotRec.origin same, congrArg SlotRec.late same, congrArg SlotRec.group same⟩
      · have same := awaits ready
        exact ⟨congrArg SlotRec.showId same, congrArg SlotRec.cls same, congrArg SlotRec.origin same, congrArg SlotRec.late same, congrArg SlotRec.group same⟩
    obtain ⟨showId, cls, from_, late, group⟩ := kept
    refine ⟨showId, cls, from_, late, group, fun ready => ?_, fun await => ?_, listed, fun ch member => ?_, ?_, fun j ne => ?_, ?_, frame⟩
    · have same := goes ready
      exact ⟨congrArg SlotRec.step same, SlotRec.runs_of_unfired (congrArg SlotRec.state same), congrArg SlotRec.clock same, congrArg SlotRec.missing same⟩
    · have same := awaits await
      exact ⟨congrArg SlotRec.step same, congrArg SlotRec.state same, congrArg SlotRec.missing same, congrArg SlotRec.primeTimer same,
        congrArg SlotRec.pointer same, congrArg SlotRec.clock same⟩
    · exact (unlisted ch member).trans (by rw [taken]; rfl)
    · exact wait.trans (by rw [taken]; rfl)
    · exact (same j ne).trans (congrArg (Option.map SlotRec.lossless) (others j ne))
    · exact rest.trans (by rw [taken]; rfl)
  · obtain ⟨owners, uid, _, pushed, unlisted, listed⟩ := pushEntries k r sh.channels
      (setSlot k (some (r.granted ((primeList p sh).map (fun c => c.1)))) p)
    refine ⟨coveredBy p sh.channels, (coveredBy p sh.channels).filter (yields p), owners, uid, _, coveredBy_eq p sh.channels, List.filter_sublist,
      fun c => by rw [List.mem_filter, yields_iff], listed once range, unlisted, rfl, ?_⟩
    rw [grant_eq busy stored, pushed]
    rfl
  · rw [afterClaim_alone k other alone, if_pos stands]
  · rw [afterClaim_alone k other alone, if_neg (ne_true_of_eq_false gone)]

end Sys2Proof.Machine

/-! The obligations about SET-LINE, SET-ROUTE and the show sets (R110, R115, R116, R122, R125 to R127). -/

namespace Sys2Proof.Machine

theorem activeLevelOf_code (c : ActiveLevel) : activeLevelOf (codeOf [.high, .low] c) = some c := by cases c <;> rfl

theorem edgeOf_code (c : Edge) : edgeOf (codeOf [.rising, .falling, .both] c) = some c := by cases c <;> rfl

theorem routeActionOf_code (c : RouteAction) : routeActionOf (codeOf [.start, .startRestart, .startSet, .stop, .release, .note] c) = some c := by
  cases c <;> rfl

theorem setModeOf_code (c : SetMode) : setModeOf (codeOf [.cycle, .all] c) = some c := by cases c <;> rfl

/-! ### SET-LINE (R110, R115) -/

theorem stepsOf5_eq_some {low high n m : Nat} : stepsOf5 low high n = some m ↔ (n = 0 ∨ low ≤ n ∧ n ≤ high ∧ n % 5 = 0) ∧ n = m := by
  rw [stepsOf5, Option.ite_none_right_eq_some, Option.some.injEq]

theorem lineOf_request (l : Nat) (st st' : LineSettings) : lineOf (st.request l) = some st' ↔ LineAccepted st ∧ st = st' := by
  unfold lineOf LineSettings.request
  simp only [yesNo_toNat, activeLevelOf_code, edgeOf_code, Option.bind_eq_bind, Option.bind_some, Option.bind_eq_some_iff, within_eq_some,
    stepsOf5_eq_some, Option.ite_none_right_eq_some, Option.some.injEq]
  constructor
  · rintro ⟨_, ⟨count, rfl⟩, _, ⟨delay, rfl⟩, _, ⟨interval, rfl⟩, both, rfl⟩
    exact ⟨⟨count, delay, interval, both⟩, rfl⟩
  · rintro ⟨⟨count, delay, interval, both⟩, rfl⟩
    exact ⟨_, ⟨count, rfl⟩, _, ⟨delay, rfl⟩, _, ⟨interval, rfl⟩, both, rfl⟩

/-- A request whose codes are in their lists (R183). -/
theorem lineOf_codes {r : SetLineReq} {st : LineSettings} (read : lineOf r = some st) :
    r.enabled ≤ 1 ∧ r.activeLevel ≤ 1 ∧ r.edge ≤ 2 ∧ r.report ≤ 1 ∧ r.wake ≤ 1 := by
  unfold lineOf at read
  obtain ⟨_, enabled, read⟩ := Option.bind_eq_some_iff.mp read
  obtain ⟨_, level, read⟩ := Option.bind_eq_some_iff.mp read
  obtain ⟨_, edge, read⟩ := Option.bind_eq_some_iff.mp read
  obtain ⟨_, _, read⟩ := Option.bind_eq_some_iff.mp read
  obtain ⟨_, _, read⟩ := Option.bind_eq_some_iff.mp read
  obtain ⟨_, _, read⟩ := Option.bind_eq_some_iff.mp read
  obtain ⟨_, report, read⟩ := Option.bind_eq_some_iff.mp read
  obtain ⟨_, wake, read⟩ := Option.bind_eq_some_iff.mp read
  exact ⟨Nat.le_of_lt_succ (pick_lt enabled), Nat.le_of_lt_succ (pick_lt level), Nat.le_of_lt_succ (pick_lt edge),
    Nat.le_of_lt_succ (pick_lt report), Nat.le_of_lt_succ (pick_lt wake)⟩

section
variable {r : SetLineReq} {p : Blocks}

theorem askSetLine_of_gt (h : 31 < r.line) : askSetLine r p = (.refused .badField, p) := if_pos h

theorem askSetLine_of_none (h : lineOf r = none) : askSetLine r p = (.refused .badField, p) := by
  unfold askSetLine
  rw [h]
  exact ite_self _

theorem askSetLine_of_some {st : LineSettings} (inRange : r.line ≤ 31) (h : lineOf r = some st) : askSetLine r p =
    (.ok (.line r.line st), modLine r.line (lineAfterSet (tget p.store.settings.lines r.line) st)
      (setSettings { p.store.settings with lines := tset p.store.settings.lines r.line st } p)) := by
  unfold askSetLine
  rw [h]
  exact if_neg (Nat.not_lt.mpr inRange)

end

/-- Settles O25. What becomes of the working record is `lineAfterSet`, by what of the settings changed. -/
theorem setLineWritesTheSettings : Obligations.SetLineWritesTheSettings := by
  intro s tag l st r ready
  have refused {r : SetLineReq} (ask : askSetLine r s.part = (.refused .badField, s.part)) : exec (.setLine tag r) s = repliesRefused s tag 15 .badField :=
    repliesRefused_of ready rfl (congrArg (answerWith tag 15) ask)
  refine ⟨fun bad => ?_, fun _ outside => ?_, fun inRange accepted => ?_⟩
  · rcases bad with beyond | codes
    · exact refused (askSetLine_of_gt beyond)
    · refine refused (askSetLine_of_none (Option.eq_none_iff_forall_ne_some.mpr fun st read => ?_))
      have := lineOf_codes read
      omega
  · refine refused (askSetLine_of_none (Option.eq_none_iff_forall_ne_some.mpr fun st' read => ?_))
    exact outside ((lineOf_request l st st').mp read).1
  · have ask := askSetLine_of_some (p := s.part) (r := st.request l) inRange ((lineOf_request l st st).mpr ⟨accepted, rfl⟩)
    refine ⟨_, repliesOk_of ready rfl (congrArg (answerWith tag 15) ask), ?_⟩
    rintro old rfl
    refine ⟨fun moved => if_pos moved, fun enabled level => ?_⟩
    have kept : ¬ ((tget s.part.store.settings.lines l).enabled ≠ st.enabled ∨ (tget s.part.store.settings.lines l).activeLevel ≠ st.activeLevel) :=
      fun moved => moved.elim (absurd enabled) (absurd level)
    exact ⟨fun moved => (if_neg kept).trans (if_pos moved),
      fun edge delay => (if_neg kept).trans (if_neg fun moved => moved.elim (absurd edge) (absurd delay))⟩

/-! ### SET-ROUTE (R116, R122) -/

/-- A request whose codes and time are in their ranges (R116, R183). -/
theorem routeOf_codes {r : SetRouteReq} {rt : RouteSettings} (read : routeOf r = some rt) :
    r.enabled ≤ 1 ∧ r.action ≤ 5 ∧ r.rearm ≤ 600 ∧ r.report ≤ 1 := by
  unfold routeOf at read
  obtain ⟨_, enabled, read⟩ := Option.bind_eq_some_iff.mp read
  obtain ⟨_, action, read⟩ := Option.bind_eq_some_iff.mp read
  obtain ⟨_, _, read⟩ := Option.bind_eq_some_iff.mp read
  obtain ⟨_, rearm, read⟩ := Option.bind_eq_some_iff.mp read
  obtain ⟨_, report, read⟩ := Option.bind_eq_some_iff.mp read
  exact ⟨Nat.le_of_lt_succ (pick_lt enabled), Nat.le_of_lt_succ (pick_lt action), (within_eq_some.mp rearm).1.2, Nat.le_of_lt_succ (pick_lt report)⟩

/-- A route is read back from a request by what its action makes of the target carried. -/
theorem routeOf_request (i : Nat) (rt rt' : RouteSettings) (t : OptField) :
    routeOf { rt.request i with target := t } = some rt' ↔ ∃ tgt, routeTarget rt.action t = some tgt ∧ rt.rearm ≤ 600 ∧ { rt with target := tgt } = rt' := by
  unfold routeOf RouteSettings.request
  simp only [yesNo_toNat, routeActionOf_code, Option.bind_eq_bind, Option.bind_some, Option.bind_eq_some_iff, within_eq_some, Option.some.injEq]
  constructor
  · rintro ⟨tgt, target, _, ⟨⟨_, rearm⟩, rfl⟩, rfl⟩
    exact ⟨tgt, target, rearm, rfl⟩
  · rintro ⟨tgt, target, rearm, rfl⟩
    exact ⟨tgt, target, _, ⟨⟨Nat.zero_le _, rearm⟩, rfl⟩, rfl⟩

theorem targetWithin_asField {high : Nat} {o o' : Option Nat} : targetWithin high (asField o) = some o' ↔ (∃ n, o = some n ∧ n ≤ high) ∧ o = o' := by
  cases o with
  | none => simp [asField, targetWithin]
  | some v => simp [asField, targetWithin]

/-- The target of an action other than NOTE is there and in its range (R116). -/
theorem routeTarget_asField {rt : RouteSettings} (acts : rt.action ≠ .note) (tgt : Option Nat) :
    rt.rearm ≤ 600 ∧ routeTarget rt.action (asField rt.target) = some tgt ↔ routeAccepted rt ∧ rt.target = tgt := by
  unfold routeAccepted routeTarget
  cases action : rt.action with
  | note => exact absurd action acts
  | start => simp only [targetWithin_asField, and_assoc]
  | startRestart => simp only [targetWithin_asField, and_assoc]
  | startSet => simp only [targetWithin_asField, and_assoc]
  | stop => simp only [targetWithin_asField, and_assoc]
  | release => simp only [targetWithin_asField, and_assoc]

theorem routeOf_accepted {rt : RouteSettings} (i : Nat) (accepted : routeAccepted rt) : routeOf (rt.request i) = some rt := by
  refine (routeOf_request i rt rt (asField rt.target)).mpr ⟨rt.target, ?_, accepted.1, rfl⟩
  by_cases note : rt.action = .note
  · have none : rt.target = none := by
      have target := accepted.2
      rw [note] at target
      exact target
    rw [note, none]
    rfl
  · exact ((routeTarget_asField note rt.target).mpr ⟨accepted, rfl⟩).2

theorem routeOf_refused {rt : RouteSettings} (i : Nat) (long : rt.action = .note → 600 < rt.rearm) (outside : ¬ routeAccepted rt) :
    routeOf (rt.request i) = none := by
  refine Option.eq_none_iff_forall_ne_some.mpr fun rt' read => ?_
  obtain ⟨tgt, target, rearm, _⟩ := (routeOf_request i rt rt' (asField rt.target)).mp read
  by_cases note : rt.action = .note
  · exact absurd rearm (Nat.not_le.mpr (long note))
  · exact outside ((routeTarget_asField note tgt).mp ⟨rearm, target⟩).1

/-- NOTE disregards the target it carries (R122). -/
theorem routeOf_note {rt : RouteSettings} (i n : Nat) (note : rt.action = .note) (accepted : routeAccepted rt) :
    routeOf { rt.request i with target := .present n } = some rt := by
  have none : rt.target = none := by
    have target := accepted.2
    rw [note] at target
    exact target
  refine (routeOf_request i rt rt (.present n)).mpr ⟨rt.target, ?_, accepted.1, rfl⟩
  rw [note, none]
  rfl

section
variable {r : SetRouteReq} {p : Blocks}

theorem askSetRoute_of_gt (h : 63 < r.source) : askSetRoute r p = (.refused .badField, p) := if_pos h

theorem askSetRoute_of_none (h : routeOf r = none) : askSetRoute r p = (.refused .badField, p) := by
  unfold askSetRoute
  rw [h]
  exact ite_self _

/-- The settings as SET-ROUTE leaves them. -/
def withRoute (i : Nat) (rt : RouteSettings) (p : Blocks) : Blocks :=
  setSettings { p.store.settings with routes := tset p.store.settings.routes i rt } p

theorem askSetRoute_of_some {rt : RouteSettings} (inRange : r.source ≤ 63) (h : routeOf r = some rt) : askSetRoute r p =
    if routeTakes r.source rt (withRoute r.source rt p) then (.ok (.route r.source rt true), takeSource r.source (withRoute r.source rt p))
    else (.ok (.route r.source rt false), withRoute r.source rt p) := by
  unfold askSetRoute
  rw [h]
  exact if_neg (Nat.not_lt.mpr inRange)

end

theorem takeSource_eq (i : Nat) (q : Blocks) : takeSource i q = afterTaking i q := rfl

theorem routeTakes_iff (i : Nat) (rt : RouteSettings) (p : Blocks) : routeTakes i rt p = true ↔
    rt.enabled = true ∧ (tget p.trigger.sources i).pending = true ∧ p.house.mode = .opened ∧ p.house.alarmState = .normal := by
  simp only [routeTakes, Bool.and_eq_true, decide_eq_true_iff, and_assoc]

/-- Settles O26. -/
theorem setRouteWritesAndMayTake : Obligations.SetRouteWritesAndMayTake := by
  intro s tag i rt r ready
  have refused {r : SetRouteReq} (ask : askSetRoute r s.part = (.refused .badField, s.part)) : exec (.setRoute tag r) s = repliesRefused s tag 16 .badField :=
    repliesRefused_of ready rfl (congrArg (answerWith tag 16) ask)
  refine ⟨fun bad => ?_, fun _ long outside => refused (askSetRoute_of_none (routeOf_refused i long outside)), fun n inRange note accepted => ?_,
    fun inRange accepted => ⟨withRoute i rt s.part, rfl, fun stays => ?_, fun enabled pending opened normal => ?_⟩⟩
  · rcases bad with beyond | codes
    · exact refused (askSetRoute_of_gt beyond)
    · refine refused (askSetRoute_of_none (Option.eq_none_iff_forall_ne_some.mpr fun rt read => ?_))
      have := routeOf_codes read
      omega
  · have carried := askSetRoute_of_some (p := s.part) (r := { rt.request i with target := .present n }) inRange (routeOf_note i n note accepted)
    have plain := askSetRoute_of_some (p := s.part) (r := rt.request i) inRange (routeOf_accepted i accepted)
    exact replies_alike ready rfl rfl (congrArg (answerWith tag 16) (carried.trans plain.symm))
  · have stands : ¬ routeTakes i rt (withRoute i rt s.part) = true := fun takes => by
      obtain ⟨enabled, pending, opened, normal⟩ := (routeTakes_iff i rt (withRoute i rt s.part)).mp takes
      rcases stays with off | clear | closed | alarm
      · exact Bool.false_ne_true (off.symm.trans enabled)
      · exact Bool.false_ne_true (clear.symm.trans pending)
      · exact nomatch closed.symm.trans opened
      · exact alarm normal
    have ask := (askSetRoute_of_some (p := s.part) (r := rt.request i) inRange (routeOf_accepted i accepted)).trans (if_neg stands)
    exact repliesOk_of ready rfl (congrArg (answerWith tag 16) ask)
  · have takes := (routeTakes_iff i rt (withRoute i rt s.part)).mpr ⟨enabled, pending, opened, normal⟩
    have ask := (askSetRoute_of_some (p := s.part) (r := rt.request i) inRange (routeOf_accepted i accepted)).trans (if_pos takes)
    exact repliesOk_of ready rfl (congrArg (answerWith tag 16) ask)

/-! ### DEFINE-SET (R125) -/

theorem setOf_eq {n code : Nat} {ids : List Nat} {mode : SetMode} (code_ : setModeOf code = some mode) (few : ids.length ≤ 8)
    (inRange : ∀ id ∈ ids, id ≤ 63) :
    setOf { number := n, shows := ids, mode := code } = some (if ids = [] then none else some { shows := ids, mode := mode }) := by
  have shows : ids.length ≤ 8 ∧ ids.all (fun id => decide (id ≤ 63)) = true :=
    ⟨few, List.all_eq_true.mpr fun id member => decide_eq_true (inRange id member)⟩
  simp only [setOf, code_, Option.bind_eq_bind, Option.bind_some, if_pos shows, List.isEmpty_iff]

theorem setOf_none {n code : Nat} {ids : List Nat} (bad : 8 < ids.length ∨ 1 < code ∨ ∃ id ∈ ids, 63 < id) :
    setOf { number := n, shows := ids, mode := code } = none := by
  refine Option.eq_none_iff_forall_ne_some.mpr fun v read => ?_
  obtain ⟨mode, named, read⟩ := Option.bind_eq_some_iff.mp read
  obtain ⟨⟨few, all⟩, _⟩ := Option.ite_none_right_eq_some.mp read
  rcases bad with many | beyond | ⟨id, member, high⟩
  · exact Nat.not_lt.mpr few many
  · exact absurd (pick_lt named) (Nat.not_lt.mpr beyond)
  · exact Nat.not_lt.mpr (of_decide_eq_true (List.all_eq_true.mp all id member)) high

section
variable {r : DefineSetReq} {p : Blocks}

theorem askDefineSet_of_gt (h : 15 < r.number) : askDefineSet r p = (.refused .badField, p) := if_pos h

theorem askDefineSet_of_none (h : setOf r = none) : askDefineSet r p = (.refused .badField, p) := by
  unfold askDefineSet
  rw [h]
  exact ite_self _

theorem askDefineSet_of_some {v : Option SetSettings} (inRange : r.number ≤ 15) (h : setOf r = some v) : askDefineSet r p =
    (.ok (.showSet r.number v), setPointer r.number 0 (setSettings { p.store.settings with sets := tset p.store.settings.sets r.number v } p)) := by
  unfold askDefineSet
  rw [h]
  exact if_neg (Nat.not_lt.mpr inRange)

end

/-! ### Starting a defined set (R126) -/

theorem startReported_set (report : Bool) (n id : Nat) (p : Blocks) :
    startReported report false (.showSet n) id p = ((startShow id (.showSet n) false p).1, afterSetStart report n id p) := by
  unfold startReported afterSetStart
  obtain ⟨res, q⟩ := startShow id (.showSet n) false p
  cases res with
  | accepted k o => rfl
  | refused why step => rfl

theorem afterSetStart_silent (n id : Nat) (p : Blocks) : afterSetStart false n id p = (startShow id (.showSet n) false p).2 := by
  unfold afterSetStart
  obtain ⟨res, q⟩ := startShow id (.showSet n) false p
  cases res with
  | accepted k o => rfl
  | refused why step => rfl

/-- One start of an ALL set, on what those before it left, its outcome after theirs. -/
def setStartNext (report : Bool) (n : Nat) (a : List (Nat × StartResult) × Blocks) (id : Nat) : List (Nat × StartResult) × Blocks :=
  (a.1 ++ [(id, (startShow id (.showSet n) false a.2).1)], afterSetStart report n id a.2)

theorem startEach_fold (report : Bool) (n : Nat) (ids : List Nat) (outs : List (Nat × StartResult)) (p : Blocks) :
    ids.foldl (setStartNext report n) (outs, p) = (outs ++ (startEach report n ids p).1, (startEach report n ids p).2) := by
  induction ids generalizing outs p with
  | nil => rw [startEach, List.append_nil, List.foldl_nil]
  | cons id ids ih =>
    rw [List.foldl_cons, setStartNext, ih, startEach, startReported_set, List.append_assoc, List.singleton_append]

theorem startDefinedSet_all {report : Bool} {n : Nat} {st : SetSettings} (p : Blocks) (all : st.mode = .all) :
    startDefinedSet report n st p = st.shows.foldl (setStartNext report n) ([], p) := by
  rw [startEach_fold, List.nil_append]
  simp only [startDefinedSet, all]

section
variable {report : Bool} {n ptr id : Nat} {st : SetSettings} {p : Blocks} (cycle : st.mode = .cycle)
  (at_ : ptr = (tget p.trigger.pointers n : Nat)) (listed : st.shows[ptr]? = some id)
include cycle at_ listed

theorem startDefinedSet_cycle : startDefinedSet report n st p =
    ([(id, (startShow id (.showSet n) false p).1)],
      if (startShow id (.showSet n) false p).1.accepted? then setPointer n ((ptr + 1) % st.shows.length) (afterSetStart report n id p)
      else afterSetStart report n id p) := by
  have chosen : st.shows.getD ptr 0 = id := by rw [List.getD_eq_getElem?_getD, listed, Option.getD_some]
  simp only [startDefinedSet, cycle, startReported_set, ← at_, chosen]

theorem startDefinedSet_accepted {k : Nat} {o : StartOutcome} (out : (startShow id (.showSet n) false p).1 = .accepted k o) :
    startDefinedSet report n st p = ([(id, .accepted k o)], setPointer n ((ptr + 1) % st.shows.length) (afterSetStart report n id p)) := by
  rw [startDefinedSet_cycle cycle at_ listed, out]
  rfl

theorem startDefinedSet_refused {why : Reason} {step : RefusalStep} (out : (startShow id (.showSet n) false p).1 = .refused why step) :
    startDefinedSet report n st p = ([(id, .refused why step)], afterSetStart report n id p) := by
  rw [startDefinedSet_cycle cycle at_ listed, out]
  rfl

end

/-! ### START-SET (R127) -/

section
variable {n : Nat} {p : Blocks}

theorem askStartSet_of_gt (h : 15 < n) : askStartSet n p = (.refused .badField, p) := if_pos h

variable (inRange : n ≤ 15)
include inRange

theorem askStartSet_of_alarm (alarm : p.house.alarmState ≠ .normal) : askStartSet n p = (.refused .alarm, p) := by
  unfold askStartSet
  rw [if_neg (Nat.not_lt.mpr inRange), if_pos ((underAlarm_iff p).mpr alarm)]
  rfl

variable (normal : p.house.alarmState = .normal)
include normal

theorem askStartSet_of_undefined (none : (tget p.store.settings.sets n : Option SetSettings) = none) : askStartSet n p = (.refused .badField, p) := by
  unfold askStartSet
  rw [if_neg (Nat.not_lt.mpr inRange), if_neg fun alarm => (underAlarm_iff p).mp alarm normal, none]
  rfl

theorem askStartSet_of_defined {st : SetSettings} (defined : tget p.store.settings.sets n = some st) : askStartSet n p =
    (.ok (.setStarted n st.mode (tget (startDefinedSet false n st p).2.trigger.pointers n) (startDefinedSet false n st p).1),
      (startDefinedSet false n st p).2) := by
  unfold askStartSet
  rw [if_neg (Nat.not_lt.mpr inRange), if_neg fun alarm => (underAlarm_iff p).mp alarm normal, defined]

end

theorem startShow_trigger (id : Nat) (origin : Origin) (restart : Bool) (p : Blocks) : (startShow id origin restart p).2.trigger = p.trigger :=
  (slotsFrame.startShow id origin restart p).trigger

theorem setStarts_trigger (n : Nat) (ids : List Nat) (a : List (Nat × StartResult) × Blocks) :
    (ids.foldl (setStartNext false n) a).2.trigger = a.2.trigger := by
  induction ids generalizing a with
  | nil => rfl
  | cons id ids ih => rw [List.foldl_cons, ih, setStartNext, afterSetStart_silent, startShow_trigger]

theorem setStartNext_silent (n : Nat) : setStartNext false n = fun a id =>
    (a.1 ++ [(id, (startShow id (.showSet n) false a.2).1)], (startShow id (.showSet n) false a.2).2) := by
  funext a id
  rw [setStartNext, afterSetStart_silent]

/-- Settles O28. -/
theorem setsAreWrittenAndStarted : Obligations.SetsAreWrittenAndStarted := by
  refine ⟨fun s tag n code ids mode ready => ⟨fun bad => ?_, fun inRange few shows => ⟨_, rfl, ?_⟩⟩,
    fun s tag n ready => ⟨fun beyond => ?_, fun inRange alarm => ?_, fun inRange normal none => ?_,
      fun st inRange normal defined => ⟨fun ptr id cycle at_ listed => ⟨_, _, rfl, fun k o accepted => ?_, fun why step refused => ?_⟩, fun all => ?_⟩⟩,
    fun report n st p => ⟨fun ptr id q cycle at_ listed same => ⟨fun k o accepted => ?_, fun why step refused => ?_⟩, startDefinedSet_all p⟩⟩
  · have refused (ask : askDefineSet { number := n, shows := ids, mode := code } s.part = (.refused .badField, s.part)) :
        exec (.defineSet tag { number := n, shows := ids, mode := code }) s = repliesRefused s tag 18 .badField :=
      repliesRefused_of ready rfl (congrArg (answerWith tag 18) ask)
    rcases bad with beyond | bad
    · exact refused (askDefineSet_of_gt beyond)
    · exact refused (askDefineSet_of_none (setOf_none bad))
  · have ask := askDefineSet_of_some (p := s.part) inRange (setOf_eq (n := n) (setModeOf_code mode) few shows)
    exact repliesOk_of ready rfl (congrArg (answerWith tag 18) ask)
  · exact repliesRefused_of ready rfl (congrArg (answerWith tag 19) (askStartSet_of_gt beyond))
  · exact repliesRefused_of ready rfl (congrArg (answerWith tag 19) (askStartSet_of_alarm inRange alarm))
  · exact repliesRefused_of ready rfl (congrArg (answerWith tag 19) (askStartSet_of_undefined inRange normal none))
  · have ask := askStartSet_of_defined inRange normal defined
    rw [startDefinedSet_accepted cycle at_ listed accepted, afterSetStart_silent, cycle] at ask
    have moved : (tget (setPointer n ((ptr + 1) % st.shows.length) (startShow id (.showSet n) false s.part).2).trigger.pointers n : Nat) =
        (ptr + 1) % st.shows.length := tget_tset_self _ _ _ (Nat.lt_succ_of_le inRange)
    rw [moved] at ask
    rw [accepted]
    exact repliesOk_of ready rfl (congrArg (answerWith tag 19) ask)
  · have ask := askStartSet_of_defined inRange normal defined
    rw [startDefinedSet_refused cycle at_ listed refused, afterSetStart_silent, cycle, startShow_trigger, ← at_] at ask
    rw [refused]
    exact repliesOk_of ready rfl (congrArg (answerWith tag 19) ask)
  · have ask := askStartSet_of_defined inRange normal defined
    rw [startDefinedSet_all s.part all, all, setStarts_trigger] at ask
    rw [← setStartNext_silent]
    exact ⟨_, _, rfl, repliesOk_of ready rfl (congrArg (answerWith tag 19) ask)⟩
  · rw [startDefinedSet_accepted cycle at_ listed accepted, same]
    rfl
  · rw [startDefinedSet_refused cycle at_ listed refused, same]

end Sys2Proof.Machine

/-! The obligations about the level unit's requests: CLEAR-LEVEL-FLAGS, GET-LEVELS, SET-GALLERY and SET-LAW (R135 to R139, R144). -/

namespace Sys2Proof.Machine

/-! ### The galleries' working records -/

theorem toList_eq_map {α : Type} {n : Nat} [Inhabited α] (t : Table α n) : t.toList = (List.range n).map (tget t) := by
  refine List.ext_getElem (by simp) fun i _ h => ?_
  have lt : i < n := by simpa using h
  rw [List.getElem_map, List.getElem_range, tget_of_lt t i lt, Vector.getElem_toList]

/-- Changing galleries of a list, each once, changes the level unit's records of those and nothing else. -/
theorem foldl_modGallery (f : Nat → GalleryWork → GalleryWork) (l : List Nat) (once : l.Nodup) (range : ∀ g ∈ l, g < 16) (p : Blocks) :
    ∃ t, l.foldl (fun q g => modGallery g (f g) q) p = { p with level := { p.level with galleries := t } } ∧
      ∀ g, tget t g = if g ∈ l then f g (tget p.level.galleries g) else tget p.level.galleries g := by
  induction l generalizing p with
  | nil => exact ⟨p.level.galleries, rfl, fun g => by rw [if_neg List.not_mem_nil]⟩
  | cons h l ih =>
    rw [List.nodup_cons] at once
    obtain ⟨t, folded, reads⟩ := ih once.2 (fun g member => range g (List.mem_cons_of_mem _ member)) (modGallery h (f h) p)
    refine ⟨t, folded, fun g => (reads g).trans ?_⟩
    by_cases same : g = h
    · subst same
      rw [if_neg once.1, if_pos List.mem_cons_self]
      exact tget_tset_self _ _ _ (range g List.mem_cons_self)
    · have other : tget (modGallery h (f h) p).level.galleries g = tget p.level.galleries g := tget_tset_ne _ _ _ _ (Ne.symm same)
      simp only [other, List.mem_cons, same, false_or]

theorem attention_iff (p : Blocks) : attention p = true ↔ ∃ g < 16, (tget p.level.galleries g).highFlag = true ∨
    (tget p.level.galleries g).lowFlag = true ∨ (tget p.level.galleries g).stuckFlag = true := by
  simp only [attention, toList_eq_map, List.any_map, List.any_eq_true, List.mem_range, Function.comp_apply, Bool.or_eq_true, or_assoc]

/-- With its STUCK flag clear and the alarm NORMAL, a gallery freezes no law (R135, R141). -/
theorem lawFrozen_false {p : Blocks} {g : Nat} (clear : (tget p.level.galleries g).stuckFlag = false) (normal : p.house.alarmState = .normal) :
    lawFrozen p g = false := by
  simp only [lawFrozen, clear, Bool.false_and, Bool.false_or, underAlarm_of_normal normal]

/-- Settles O29. -/
theorem clearLevelFlagsClearsTheChosen : Obligations.ClearLevelFlagsClearsTheChosen := by
  refine ⟨attention_iff, fun s tag chosen ready => ?_, fun p g => lawFrozen_false⟩
  obtain ⟨gs, cleared, reads⟩ := foldl_modGallery (clearFlags chosen) galleryNumbers List.nodup_range (fun g member => List.mem_range.mp member) s.part
  refine ⟨gs, repliesOk_of ready rfl (congrArg (answerWith tag 21) ?_), fun g low => (reads g).trans (if_pos (List.mem_range.mpr low))⟩
  unfold askClearLevelFlags
  rw [cleared, toList_eq_map, List.map_map]
  rfl

/-! ### GET-LEVELS and SET-GALLERY (R136, R137) -/

theorem galleryOf_of {r : SetGalleryReq} (order : r.low < r.high) (high : r.high ≤ 1023)
    (count : r.stuckCount = 0 ∨ 10 ≤ r.stuckCount ∧ r.stuckCount ≤ 255) :
    galleryOf r = some { low := r.low, high := r.high, stuckCount := r.stuckCount } := if_pos ⟨order, high, count⟩

theorem galleryOf_none {r : SetGalleryReq}
    (bad : 1023 < r.low ∨ 1023 < r.high ∨ r.high ≤ r.low ∨ 1 ≤ r.stuckCount ∧ r.stuckCount ≤ 9 ∨ 255 < r.stuckCount) : galleryOf r = none :=
  if_neg (by omega)

section
variable {r : SetGalleryReq} {p : Blocks}

theorem askSetGallery_of_gt (h : 15 < r.gallery) : askSetGallery r p = (.refused .badField, p) := if_pos h

theorem askSetGallery_of_none (h : galleryOf r = none) : askSetGallery r p = (.refused .badField, p) := by
  unfold askSetGallery
  rw [h]
  exact ite_self _

theorem askSetGallery_of_some {st : GallerySettings} (inRange : r.gallery ≤ 15) (h : galleryOf r = some st) : askSetGallery r p =
    (.ok (.gallery r.gallery st), setSettings { p.store.settings with galleries := tset p.store.settings.galleries r.gallery st } p) := by
  unfold askSetGallery
  rw [h]
  exact if_neg (Nat.not_lt.mpr inRange)

end

/-- Settles O30. -/
theorem levelsAreReadAndThresholdsWritten : Obligations.LevelsAreReadAndThresholdsWritten := by
  refine ⟨fun s tag g0 ready => ⟨fun beyond => ?_, fun inRange => ?_⟩, fun s tag g low high count ready => ⟨fun bad => ?_, fun inRange top order counts => ?_⟩⟩
  · exact repliesRefused_of ready rfl (congrArg (answerWith tag 22) (if_pos beyond : askGetLevels g0 s.part = _))
  · obtain ⟨gs, forgotten, reads⟩ := foldl_modGallery (fun _ w => { w with minimum := 1023, maximum := 0 }) (numbersFrom g0 8 16)
      (List.nodup_range.filter _) (fun g member => List.mem_range.mp (List.mem_of_mem_filter member)) s.part
    refine ⟨gs, repliesOk_of ready rfl (congrArg (answerWith tag 22) (?_ : askGetLevels g0 s.part = _)), fun g low => (reads g).trans ?_⟩
    · unfold askGetLevels
      rw [if_neg (Nat.not_lt.mpr inRange), forgotten]
      rfl
    · have member : g ∈ numbersFrom g0 8 16 ↔ g0 ≤ g ∧ g < g0 + 8 := by simp [numbersFrom_eq, low]
      simp only [member]
  · have refused {r : SetGalleryReq} (ask : askSetGallery r s.part = (.refused .badField, s.part)) :
        exec (.setGallery tag r) s = repliesRefused s tag 23 .badField := repliesRefused_of ready rfl (congrArg (answerWith tag 23) ask)
    rcases bad with beyond | bad
    · exact refused (askSetGallery_of_gt beyond)
    · exact refused (askSetGallery_of_none (galleryOf_none bad))
  · have ask := askSetGallery_of_some (p := s.part) (r := { gallery := g, low := low, high := high, stuckCount := count }) inRange
      (galleryOf_of order top counts)
    exact repliesOk_of ready rfl (congrArg (answerWith tag 23) ask)

/-! ### SET-LAW (R138, R139, R144) -/

theorem increasing_iff (curve : List CurvePoint) : increasing curve = true ↔ curve.Pairwise (fun a b => a.level < b.level) := by
  induction curve with
  | nil => simp [increasing]
  | cons a rest ih =>
    cases rest with
    | nil => simp [increasing]
    | cons b rest =>
      rw [increasing, Bool.and_eq_true, ih, decide_eq_true_iff, List.pairwise_cons (a := a)]
      refine and_congr_left fun rises => ?_
      rw [List.forall_mem_cons]
      exact ⟨fun first => ⟨first, fun c member => first.trans (List.rel_of_pairwise_cons rises member)⟩, And.left⟩

theorem curveOf_points (curve curve' : List CurvePoint) : curveOf (curve.map (fun q => (q.level, q.gain))) = some curve' ↔
    (curve.length = 5 ∧ (∀ q ∈ curve, q.level ≤ 1023 ∧ q.gain ≤ 100) ∧ curve.Pairwise (fun a b => a.level < b.level)) ∧ curve = curve' := by
  unfold curveOf
  rw [List.map_map, show curve.map ((fun q => ({ level := q.1, gain := q.2 } : CurvePoint)) ∘ fun q => (q.level, q.gain)) = curve from List.map_id' curve]
  simp only [Option.ite_none_right_eq_some, Option.some.injEq, List.all_eq_true, Bool.and_eq_true, decide_eq_true_iff, increasing_iff]

theorem lawOf_request (ch : Nat) (law law' : LawSettings) : lawOf (law.request ch) = some law' ↔ LawAccepted law ∧ law = law' := by
  unfold lawOf LawSettings.request
  simp only [yesNo_toNat, curveOf_points, Option.bind_eq_bind, Option.bind_some, Option.bind_eq_some_iff, within_eq_some, Option.some.injEq]
  constructor
  · rintro ⟨_, ⟨⟨_, gallery⟩, rfl⟩, _, ⟨⟨points, ranges, rising⟩, rfl⟩, _, ⟨⟨up, up'⟩, rfl⟩, _, ⟨⟨down, down'⟩, rfl⟩, _, ⟨⟨_, hysteresis⟩, rfl⟩, rfl⟩
    exact ⟨⟨gallery, points, ranges, rising, ⟨up, up', down, down'⟩, hysteresis⟩, rfl⟩
  · rintro ⟨⟨gallery, points, ranges, rising, ⟨up, up', down, down'⟩, hysteresis⟩, rfl⟩
    exact ⟨_, ⟨⟨Nat.zero_le _, gallery⟩, rfl⟩, _, ⟨⟨points, ranges, rising⟩, rfl⟩, _, ⟨⟨up, up'⟩, rfl⟩, _, ⟨⟨down, down'⟩, rfl⟩, _,
      ⟨⟨Nat.zero_le _, hysteresis⟩, rfl⟩, rfl⟩

/-- A request whose flags are yes or no (R183). -/
theorem lawOf_codes {r : SetLawReq} {law : LawSettings} (read : lawOf r = some law) : r.interpolate ≤ 1 ∧ r.jumpHigh ≤ 1 ∧ r.jumpLow ≤ 1 := by
  unfold lawOf at read
  obtain ⟨_, _, read⟩ := Option.bind_eq_some_iff.mp read
  obtain ⟨_, _, read⟩ := Option.bind_eq_some_iff.mp read
  obtain ⟨_, interpolate, read⟩ := Option.bind_eq_some_iff.mp read
  obtain ⟨_, _, read⟩ := Option.bind_eq_some_iff.mp read
  obtain ⟨_, _, read⟩ := Option.bind_eq_some_iff.mp read
  obtain ⟨_, high, read⟩ := Option.bind_eq_some_iff.mp read
  obtain ⟨_, low, read⟩ := Option.bind_eq_some_iff.mp read
  exact ⟨Nat.le_of_lt_succ (pick_lt interpolate), Nat.le_of_lt_succ (pick_lt high), Nat.le_of_lt_succ (pick_lt low)⟩

theorem lawChannelOk_iff (p : Blocks) (ch : Nat) : lawChannelOk p.store.settings ch = true ↔ ∃ e, channelEntry p ch = some e ∧ e.kind ≠ .effect := by
  unfold lawChannelOk channelEntry
  cases (tget p.store.settings.channels ch : Option ChannelEntry) with
  | none => simp
  | some e => simp

section
variable {r : SetLawReq} {p : Blocks}

theorem askSetLaw_of_gt (h : 127 < r.channel) : askSetLaw r p = (.refused .badField, p) := if_pos h

theorem askSetLaw_of_none (h : lawOf r = none) : askSetLaw r p = (.refused .badField, p) := by
  unfold askSetLaw
  rw [h]
  exact ite_self _

variable {law : LawSettings} (h : lawOf r = some law)
include h

theorem askSetLaw_of_channel (bad : lawChannelOk p.store.settings r.channel = false) : askSetLaw r p = (.refused .badField, p) := by
  unfold askSetLaw
  rw [h]
  dsimp only
  rw [bad]
  exact ite_self _

variable {w : LawWork} {q : Blocks} (inRange : r.channel ≤ 127) (good : lawChannelOk p.store.settings r.channel = true)
  (written : writeLaw r.channel law p = q) (work : tget q.level.laws r.channel = w)
include inRange good written work

theorem askSetLaw_of_kept (kept : trimAtWrite r.channel law q = none) :
    askSetLaw r p = (.ok (.lawWritten r.channel law w.target w.current false), q) := by
  unfold askSetLaw
  rw [h, if_neg (Nat.not_lt.mpr inRange)]
  dsimp only
  rw [if_pos good, written, work, kept]

theorem askSetLaw_of_trimmed {gain : Nat} (trim : trimAtWrite r.channel law q = some gain) :
    askSetLaw r p = (.ok (.lawWritten r.channel law w.target w.current true), offerTrim r.channel gain q) := by
  unfold askSetLaw
  rw [h, if_neg (Nat.not_lt.mpr inRange)]
  dsimp only
  rw [if_pos good, written, work, trim]

end

theorem trimMayGo_iff {p : Blocks} {ch : Nat} {e : ChannelEntry} (mapped : channelEntry p ch = some e) :
    trimMayGo p ch = true ↔ nodePresent p e.node = true ∧ trimOutstanding p ch = false := by
  simp only [trimMayGo, mapped, Bool.and_eq_true, Bool.not_eq_true']

/-- A law's working record at its write, with the gain for the latest reading. -/
def writtenWork (ch : Nat) (law : LawSettings) (gain : Option Nat) (p : Blocks) : LawWork :=
  { target := gain, current := gain, lastSent := if lawOn p ch = none then none else (tget p.level.laws ch).lastSent
    frozen := lawFrozen p law.gallery }

theorem lawWorkWritten_eq (ch : Nat) (law : LawSettings) (p : Blocks) :
    lawWorkWritten law (lawOn p ch) (tget p.level.laws ch) (tget p.level.galleries law.gallery).sample (lawFrozen p law.gallery) =
      writtenWork ch law ((tget p.level.galleries law.gallery).sample.map (targetGain law)) p := by
  unfold lawWorkWritten writtenWork
  cases lawOn p ch with
  | none => rfl
  | some old => rfl

/-- Settles O31. The TRIM at the write is judged in the part as written, where the channel's entry, its node and the bus are as they were. -/
theorem setLawWritesAndRemoves : Obligations.SetLawWritesAndRemoves := by
  intro s tag ch law r ready
  have refused {r : SetLawReq} (ask : askSetLaw r s.part = (.refused .badField, s.part)) : exec (.setLaw tag r) s = repliesRefused s tag 24 .badField :=
    repliesRefused_of ready rfl (congrArg (answerWith tag 24) ask)
  refine ⟨fun bad => ?_, fun beyond => ?_, fun inRange bad => ?_, fun e inRange accepted mapped kind => ?_, fun inRange => ?_⟩
  · rcases bad with beyond | codes
    · exact refused (askSetLaw_of_gt beyond)
    · refine refused (askSetLaw_of_none (Option.eq_none_iff_forall_ne_some.mpr fun law read => ?_))
      have := lawOf_codes read
      omega
  · exact repliesRefused_of ready rfl (congrArg (answerWith tag 24) (if_pos beyond : askRemoveLaw ch s.part = _))
  · by_cases accepted : LawAccepted law
    · refine refused (askSetLaw_of_channel ((lawOf_request ch law law).mpr ⟨accepted, rfl⟩) (Bool.eq_false_iff.mpr fun good => ?_))
      obtain ⟨e, mapped, kind⟩ := (lawChannelOk_iff s.part ch).mp good
      rcases bad with not | none | ⟨e', mapped', effect⟩
      · exact not accepted
      · exact nomatch none.symm.trans mapped
      · cases mapped.symm.trans mapped'
        exact kind effect
    · exact refused (askSetLaw_of_none (Option.eq_none_iff_forall_ne_some.mpr fun law' read => accepted ((lawOf_request ch law law').mp read).1))
  · obtain ⟨gain, latest⟩ : ∃ gain, gain = (tget s.part.level.galleries law.gallery).sample.map (targetGain law) := ⟨_, rfl⟩
    obtain ⟨w, work⟩ : ∃ w, w = writtenWork ch law gain s.part := ⟨_, rfl⟩
    obtain ⟨q, writes⟩ : ∃ q, q = { s.part with
        store := { s.part.store with settings := { s.part.store.settings with laws := tset s.part.store.settings.laws ch (some law) } }
        level := { s.part.level with laws := tset s.part.level.laws ch w } } := ⟨_, rfl⟩
    have written : writeLaw ch law s.part = q := by
      rw [writes, work, latest, ← lawWorkWritten_eq]
      rfl
    have reads : tget q.level.laws ch = w := by
      rw [writes]
      exact tget_tset_self _ _ _ (Nat.lt_succ_of_le inRange)
    have may : trimMayGo q ch = true ↔ nodePresent s.part e.node = true ∧ trimOutstanding s.part ch = false := by
      rw [writes]
      exact trimMayGo_iff mapped
    have trim : trimAtWrite ch law q = if w.frozen || !trimMayGo q ch then none else gain := by
      have current : w.current = gain := by rw [work]; rfl
      have frozen : lawFrozen q law.gallery = w.frozen := by rw [work, writes]; rfl
      rw [trimAtWrite, reads, current, frozen]
    have good := (lawChannelOk_iff s.part ch).mpr ⟨e, mapped, kind⟩
    have read := (lawOf_request ch law law).mpr ⟨accepted, rfl⟩
    refine ⟨gain, w, q, latest, work, writes, fun holds => ?_, fun v some moves present clear => ?_⟩
    · have ask := askSetLaw_of_kept (r := law.request ch) read inRange good written reads ?_
      · rw [work] at ask
        exact repliesOk_of ready rfl (congrArg (answerWith tag 24) ask)
      rw [LawSettings.request, trim]
      rcases holds with none | frozen | absent | outstanding
      · rw [none, ite_self]
      · rw [frozen]; rfl
      · rw [Bool.eq_false_iff.mpr fun m => Bool.false_ne_true (absent.symm.trans (may.mp m).1), Bool.not_false, Bool.or_true, if_pos rfl]
      · rw [Bool.eq_false_iff.mpr fun m => Bool.false_ne_true ((may.mp m).2.symm.trans outstanding), Bool.not_false, Bool.or_true, if_pos rfl]
    · have ask := askSetLaw_of_trimmed (r := law.request ch) (gain := v) read inRange good written reads ?_
      · rw [work] at ask
        exact repliesOk_of ready rfl (congrArg (answerWith tag 24) ask)
      rw [LawSettings.request, trim, moves, may.mpr ⟨present, clear⟩]
      exact some
  · have ask : askRemoveLaw ch s.part = (.ok (.lawRemoved ch (lawOn s.part ch).isSome), dropLaw ch s.part) := if_neg (Nat.not_lt.mpr inRange)
    exact repliesOk_of ready rfl (congrArg (answerWith tag 24) ask)

end Sys2Proof.Machine

/-! SUPPORT. Openings, closings and the end of the alarm: each as its rule gives it, and what an opening leaves of the store and the house (R161 to R163, R169). -/

namespace Sys2Proof.Machine

/-! ### Openings (R119, R162) -/

theorem autostartShows_eq (p : Blocks) : autostartShows p = autostartIds p := by
  unfold autostartShows autostartIds
  congr 1
  funext id
  cases showOf p id with
  | none => rfl
  | some sh => rfl

/-- A claim is refused with CHANNEL-BUSY alone (R31). -/
theorem takeSlot_refused {k id : Nat} {sh : ShowRecord} {origin : Origin} {p : Blocks} {why : Reason} {step : RefusalStep}
    (h : (takeSlot k id sh origin p).1 = .refused why step) : why = .channelBusy := by
  unfold takeSlot at h
  by_cases claims : claimable (setSlot k (some (SlotRec.taken id sh origin)) p) k = true
  · simp only [claims, if_true, reduceCtorEq] at h
  · cases conflict : sh.conflict with
    | wait => simp only [claims, conflict, Bool.false_eq_true, if_false, reduceCtorEq] at h
    | refuse =>
      simp only [claims, conflict, Bool.false_eq_true, if_false] at h
      exact (StartResult.refused.inj h).1.symm

/-- A start refused with ALREADY is refused at its checks (R45). -/
theorem startShow_already_step {id : Nat} {origin : Origin} {restart : Bool} {p : Blocks} {step : RefusalStep}
    (h : (startShow id origin restart p).1 = .refused .already step) : step = .check := by
  unfold startShow at h
  split at h
  · exact (StartResult.refused.inj h).2.symm
  · exact (StartResult.refused.inj h).2.symm
  · split at h
    · split at h
      · exact nomatch h
      · exact (StartResult.refused.inj h).2.symm
    · split at h
      · exact (StartResult.refused.inj h).2.symm
      · exact nomatch takeSlot_refused h

theorem autostartOne_eq (id : Nat) (p : Blocks) : autostartOne id p = afterAutostart p id := by
  unfold autostartOne afterAutostart
  cases out : startShow id .autostart false p with
  | mk res q =>
    cases res with
    | accepted k o => rfl
    | refused why step =>
      dsimp only
      by_cases already : why = .already
      · subst already
        obtain rfl := startShow_already_step (congrArg Prod.fst out)
        rfl
      · have reported : StartResult.refused why step ≠ .refused .already .check := fun same => already (StartResult.refused.inj same).1
        rw [if_neg already, decide_eq_true reported]
        rfl

theorem autostarts_eq (p : Blocks) : autostarts p = (autostartIds p).foldl afterAutostart p := by
  unfold autostarts
  rw [autostartShows_eq]
  simp only [autostartOne_eq]

theorem takePending_eq (p : Blocks) : takePending p = (List.range 64).foldl afterWaiting p := by
  unfold takePending sourceNumbers
  congr 1
  funext q i
  simp only [sourceWaits, Bool.and_eq_true, takeSource_eq, afterWaiting]

theorem opening_eq (cause : OpenCause) (p : Blocks) : opening cause p = afterOpening cause p := by
  rw [opening, takePending_eq, autostarts_eq]
  rfl

/-- A relation between the part before and after that holds of whatever leaves all but the slots' part as it was, and of a change of the trigger unit: it holds of every route action and of an opening but for the house's mode. -/
structure ActionClosed (R : Blocks → Blocks → Prop) : Prop where
  refl : ∀ p, R p p
  trans : ∀ {p q r}, R p q → R q r → R p r
  slots : ∀ {p q}, SlotsFrame p q → R p q
  triggers : ∀ t p, R p { p with trigger := t }

namespace ActionClosed

variable {R : Blocks → Blocks → Prop} (c : ActionClosed R)
include c

theorem fold {α : Type} {f : Blocks → α → Blocks} (h : ∀ q a, R q (f q a)) (l : List α) (p : Blocks) : R p (l.foldl f p) := by
  induction l generalizing p with
  | nil => exact c.refl p
  | cons a l ih => exact c.trans (h p a) (ih (f p a))

theorem putNotice (n : Notice) (p : Blocks) : R p (putNotice n p) := c.slots (slotsFrame.notice n p)

theorem reportRefusal (report : Bool) (origin : Origin) (id : Nat) (res : StartResult) (p : Blocks) : R p (reportRefusal report origin id res p) := by
  unfold Machine.reportRefusal
  split
  · exact c.refl p
  · split
    · exact c.putNotice _ p
    · exact c.refl p

theorem startReported (report restart : Bool) (origin : Origin) (id : Nat) (p : Blocks) : R p (startReported report restart origin id p).2 :=
  c.trans (c.slots (slotsFrame.startShow id origin restart p)) (c.reportRefusal _ _ _ _ _)

theorem startEach (report : Bool) (n : Nat) (ids : List Nat) (p : Blocks) : R p (startEach report n ids p).2 := by
  induction ids generalizing p with
  | nil => exact c.refl p
  | cons id ids ih => exact c.trans (c.startReported report false (.showSet n) id p) (ih _)

theorem startSetBy (report : Bool) (n : Nat) (p : Blocks) : R p (startSetBy report n p) := by
  unfold Machine.startSetBy
  split
  · exact c.refl p
  · unfold startDefinedSet
    split
    · exact c.startEach _ _ _ p
    · dsimp only
      split
      · exact c.trans (c.startReported _ _ _ _ p) (c.triggers _ _)
      · exact c.startReported _ _ _ _ p

theorem stopHolding (id : Nat) (p : Blocks) : R p (stopHolding id p) := by
  unfold Machine.stopHolding
  split
  · exact c.refl p
  · exact c.slots (slotsFrame.endSlots _ p)

theorem refuseRoute (i : Nat) (rt : RouteSettings) (id : Nat) (why : Reason) (p : Blocks) : R p (refuseRoute i rt id why p) := by
  unfold Machine.refuseRoute
  split
  · exact c.putNotice _ p
  · exact c.refl p

theorem routeAction (i : Nat) (rt : RouteSettings) (p : Blocks) : R p (routeAction i rt p) := by
  unfold Machine.routeAction
  split
  · exact c.startReported _ _ _ _ p
  · exact c.startReported _ _ _ _ p
  · exact c.startSetBy _ _ p
  · split
    · exact c.refuseRoute _ _ _ _ p
    · exact c.stopHolding _ p
  · split
    · exact c.refuseRoute _ _ _ _ p
    · split
      · exact c.refuseRoute _ _ _ _ p
      · exact c.slots (slotsFrame.releaseHold _ p)
  · exact c.putNotice _ p
  · exact c.refl p

theorem takeSource (i : Nat) (p : Blocks) : R p (takeSource i p) := c.trans (c.triggers _ p) (c.routeAction i _ _)

theorem takePending (p : Blocks) : R p (takePending p) := by
  refine c.fold (fun q i => ?_) _ p
  split
  · exact c.takeSource i q
  · exact c.refl q

theorem autostarts (p : Blocks) : R p (autostarts p) :=
  c.fold (fun q id => c.trans (c.slots (slotsFrame.startShow id .autostart false q)) (c.reportRefusal _ _ _ _ _)) _ p

theorem opening (cause : OpenCause) (p : Blocks) : R { p with house := { p.house with mode := .opened } } (opening cause p) :=
  c.trans (c.trans (c.putNotice _ _) (c.autostarts _)) (c.takePending _)

end ActionClosed

/-- The cue store, the settings and the house are as they were. -/
def HouseKept (p q : Blocks) : Prop := q.store = p.store ∧ q.house = p.house

theorem houseKept : ActionClosed HouseKept where
  refl _ := ⟨rfl, rfl⟩
  trans a b := ⟨b.1.trans a.1, b.2.trans a.2⟩
  slots frame := ⟨frame.store, frame.house⟩
  triggers _ _ := ⟨rfl, rfl⟩

/-! ### Closings (R161) -/

theorem closedSlots_iff (p : Blocks) (k : Nat) :
    k ∈ closedSlots p ↔ ∃ r sh, slotOf p k = some r ∧ showOf p r.showId = some sh ∧ closes r sh := by
  unfold closedSlots slotNumbers
  rw [List.mem_filter, List.mem_range]
  cases shows : slotShow p k with
  | none =>
    simp only [Bool.false_eq_true, and_false, false_iff]
    rintro ⟨r, sh, busy, stored, _⟩
    rw [slotShow_of busy stored] at shows
    exact nomatch shows
  | some x =>
    obtain ⟨r, sh⟩ := x
    obtain ⟨busy, stored⟩ := slotShow_some shows
    simp only [slotOf_lt busy, true_and, Bool.or_eq_true, Bool.and_eq_true, decide_eq_true_iff, Bool.not_eq_true']
    refine ⟨fun ends => ⟨r, sh, busy, stored, by simpa only [closes, or_assoc] using ends⟩, fun ⟨r', sh', busy', stored', ends⟩ => ?_⟩
    cases busy.symm.trans busy'
    cases stored.symm.trans stored'
    simpa only [closes, or_assoc] using ends

theorem wakePending_iff (p : Blocks) : wakePending p = true ↔
    ∃ l < 32, (tget p.store.settings.lines l).wake = true ∧ (tget p.trigger.sources l).pending = true := by
  simp only [wakePending, List.any_eq_true, List.mem_range, Bool.and_eq_true]

/-- The house CLOSED with its wake set, and the notice of it. -/
def houseClosed (w : WakeSet) (origin : CloseOrigin) (p : Blocks) : Blocks :=
  putNotice (.houseClosed w origin) { p with house := { p.house with mode := .closed, wake := w } }

section
variable {w : WakeSet} (origin : CloseOrigin) {p : Blocks}

theorem closing_of_pending (normal : p.house.alarmState = .normal) (wakes : w.trigger = true) (pending : wakePending p = true) :
    closing w origin p = (none, p) := by
  simp only [closing, underAlarm_of_normal normal, wakes, pending, Bool.not_false, Bool.and_self, if_true]

theorem closing_of_alarm (alarm : p.house.alarmState ≠ .normal) : closing w origin p = (some 0, houseClosed w origin p) := by
  have under := (underAlarm_iff p).mpr alarm
  simp only [closing, under, Bool.not_true, Bool.false_and, Bool.false_eq_true, if_false, if_true]
  rfl

theorem closing_of_normal (normal : p.house.alarmState = .normal) (may : w.trigger = false ∨ wakePending p = false) :
    closing w origin p =
      (some (endCounted ((closedSlots (houseClosed w origin p)).map (fun k => (k, EndReason.closed))) (houseClosed w origin p)).1,
        endSlots ((closedSlots (houseClosed w origin p)).map (fun k => (k, EndReason.closed))) (houseClosed w origin p)) := by
  have unbarred : (w.trigger && wakePending p) = false := by
    rcases may with off | clear
    · rw [off, Bool.false_and]
    · rw [clear, Bool.and_false]
  simp only [closing, underAlarm_of_normal normal, Bool.not_false, Bool.true_and, unbarred, Bool.false_eq_true, if_false]
  rfl

/-- A closing that is refused does nothing. -/
theorem closing_refused {q : Blocks} (h : closing w origin p = (none, q)) : q = p := by
  by_cases alarm : p.house.alarmState = .normal
  · by_cases barred : w.trigger = true ∧ wakePending p = true
    · rw [closing_of_pending origin alarm barred.1 barred.2] at h
      exact (congrArg Prod.snd h).symm
    · rw [not_and_or, Bool.not_eq_true, Bool.not_eq_true] at barred
      rw [closing_of_normal origin alarm barred] at h
      exact nomatch congrArg Prod.fst h
  · rw [closing_of_alarm origin alarm] at h
    exact nomatch congrArg Prod.fst h

end

end Sys2Proof.Machine

/-! The obligations about CLOSE, OPEN, ALARM-ACK and RESUME. -/

namespace Sys2Proof.Machine

/-! ### CLOSE (R161) -/

theorem wakeOf_none {w : WakeReq} (bad : 1 < w.schedule ∨ 1 < w.trigger) : wakeOf w = none := by
  refine Option.eq_none_iff_forall_ne_some.mpr fun ws read => ?_
  obtain ⟨_, schedule, read⟩ := Option.bind_eq_some_iff.mp read
  obtain ⟨_, trigger, read⟩ := Option.bind_eq_some_iff.mp read
  exact bad.elim (Nat.not_lt.mpr (Nat.le_of_lt_succ (pick_lt schedule))) (Nat.not_lt.mpr (Nat.le_of_lt_succ (pick_lt trigger)))

theorem wakeOf_some {w : WakeReq} {ws : WakeSet} (schedule : w.schedule = ws.schedule.toNat) (trigger : w.trigger = ws.trigger.toNat) :
    wakeOf w = some ws := by
  rw [wakeOf, schedule, trigger, yesNo_toNat, yesNo_toNat]
  rfl

/-- Settles O36. The notice of the closing changes no slot, so the slots that close are those of the part before it. -/
theorem closeEndsTheShows : Obligations.CloseEndsTheShows := by
  refine ⟨?_, fun s tag w ws ready => ⟨fun bad => ?_, fun schedule trigger => ⟨fun q out => ?_, fun n q out => ?_⟩⟩⟩
  · rintro w origin p _ rfl
    refine ⟨fun normal wakes pending => closing_of_pending origin normal wakes ((wakePending_iff p).mpr pending), closing_of_alarm origin,
      fun normal may => ?_⟩
    have closes := closing_of_normal origin normal (w := w) (may.imp_right fun clear => Bool.eq_false_iff.mpr fun pending => by
      obtain ⟨l, low, wake, waits⟩ := (wakePending_iff p).mp pending
      exact Bool.false_ne_true ((clear l low wake).symm.trans waits))
    have slots : ∀ k, slotOf (houseClosed w origin p) k = slotOf p k := fun k => slotOf_putNotice _ _ k
    have frame : OfferFrame { p with house := { p.house with mode := .closed, wake := w } } (houseClosed w origin p) := offerFrame_notice _ _
    have busy : ∀ k ∈ closedSlots (houseClosed w origin p), slotOf (houseClosed w origin p) k ≠ none := by
      intro k member
      obtain ⟨r, _, holds, _⟩ := (closedSlots_iff _ k).mp member
      rw [holds]
      exact Option.some_ne_none r
    obtain ⟨ended, counts, counted, distinct, few, among, quiet, nothing⟩ := endCounted_spec (ks := closedSlots (houseClosed w origin p)) .closed List.filter_sublist busy
    refine ⟨closedSlots (houseClosed w origin p), _, ended, List.filter_sublist, fun k => ?_, rfl, slotsFrame.endSlots _ _, counts, ?_, distinct, few, among,
      fun empty => quiet ((congrArg ChannelMap.waitOrder frame.map).trans empty),
      fun none groups idle => nothing none (frame.groups.trans groups) (frame.foresight.trans idle)⟩
    · rw [closedSlots_iff]
      simp only [slots, showOf, frame.others.store]
    · rw [closes, counted]
      rfl
  · exact repliesRefused_of ready rfl (congrArg (answerWith tag 31) (by rw [askClose, wakeOf_none bad]; rfl))
  · obtain rfl := closing_refused .link out
    refine repliesRefused_of ready rfl (congrArg (answerWith tag 31) ?_)
    rw [askClose, wakeOf_some schedule trigger]
    dsimp only
    rw [out]
  · refine repliesOk_of ready rfl (congrArg (answerWith tag 31) ?_)
    rw [askClose, wakeOf_some schedule trigger]
    dsimp only
    rw [out]

/-! ### OPEN (R162, R163) -/

theorem askOpen_of_alarm {p : Blocks} (alarm : p.house.alarmState ≠ .normal) : askOpen p = (.refused .alarm, p) :=
  if_pos ((underAlarm_iff p).mpr alarm)

theorem askOpen_of_opened {p : Blocks} (normal : p.house.alarmState = .normal) (opened : p.house.mode = .opened) :
    askOpen p = (.ok (.houseOpen .opened false), p) := by
  simp only [askOpen, underAlarm_of_normal normal, opened, Bool.false_eq_true, if_false]

theorem askOpen_of_closed {p : Blocks} (normal : p.house.alarmState = .normal) (closed : p.house.mode = .closed) :
    askOpen p = (.ok (.houseOpen .opened true), afterOpening .link p) := by
  have opens : (afterOpening .link p).house.mode = .opened := by
    rw [← opening_eq]
    exact congrArg HouseUnit.mode (houseKept.opening .link p).2
  simp only [askOpen, underAlarm_of_normal normal, closed, Bool.false_eq_true, if_false, opening_eq, opens]

/-- Settles O37. Neither the autostarts nor the sources taken write the store or the house. -/
theorem openCarriesOutTheOpening : Obligations.OpenCarriesOutTheOpening := by
  intro s tag ready
  have kept := houseKept.opening .link s.part
  rw [opening_eq] at kept
  exact ⟨fun alarm => repliesRefused_of ready rfl (congrArg (answerWith tag 32) (askOpen_of_alarm alarm)),
    fun normal opened => repliesOk_of ready rfl (congrArg (answerWith tag 32) (askOpen_of_opened normal opened)),
    fun normal closed => ⟨repliesOk_of ready rfl (congrArg (answerWith tag 32) (askOpen_of_closed normal closed)), kept.1, kept.2⟩⟩

/-! ### ALARM-ACK and RESUME (R167, R169) -/

/-- An immediate request that leaves the store and the requests that wait is answered at its arrival. -/
theorem prompt_answer {c : Instr} {tag kind : Byte} {r : Request} {s : State} {out : Verdict × Blocks} (h : Prompt s.part)
    (arrival : arrivalOf c = some (tag, r)) (immediate : requestImmediate r = true)
    (taken : takeRequest tag (kindOfRequest r) r s.part = answerWith tag kind out) (store : out.2.store = s.part.store)
    (requests : out.2.link.requests = s.part.link.requests) : exec c s = becomes s (transmit (answerWith tag kind out)) := by
  have prompt := prompt_taken h arrival immediate
  rw [taken] at prompt
  exact prompt (fun none => requests.trans none) store

theorem prompt_ok {c : Instr} {tag kind : Byte} {r : Request} {s : State} {body : OkBody} {p : Blocks} (h : Prompt s.part)
    (arrival : arrivalOf c = some (tag, r)) (immediate : requestImmediate r = true)
    (taken : takeRequest tag (kindOfRequest r) r s.part = answerWith tag kind (.ok body, p)) (store : p.store = s.part.store)
    (requests : p.link.requests = s.part.link.requests) : exec c s = repliesOk s tag kind body p :=
  prompt_answer h arrival immediate taken store requests

theorem prompt_refused {c : Instr} {tag kind : Byte} {r : Request} {s : State} {why : Reason} (h : Prompt s.part)
    (arrival : arrivalOf c = some (tag, r)) (immediate : requestImmediate r = true)
    (taken : takeRequest tag (kindOfRequest r) r s.part = answerWith tag kind (.refused why, s.part)) : exec c s = repliesRefused s tag kind why :=
  prompt_answer h arrival immediate taken rfl rfl

theorem askAlarmAck_of_normal {p : Blocks} (normal : p.house.alarmState = .normal) : askAlarmAck p = (.refused .notInAlarm, p) := by
  simp only [askAlarmAck, normal, refuseAs]

theorem askAlarmAck_of_alarm {p : Blocks} (alarm : p.house.alarmState ≠ .normal) : askAlarmAck p =
    (.ok (.acknowledged p.house.alarmState p.house.alert), { p with house := { p.house with acknowledged := true, escalation := none, alert := false } }) := by
  unfold askAlarmAck
  cases state : p.house.alarmState with
  | normal => exact absurd state alarm
  | alarm => rw [modHouse]
  | alarmHeld => rw [modHouse]

/-- The alarm NORMAL again, with its notice. -/
def alarmCleared (p : Blocks) : Blocks :=
  putNotice (.alarm .cleared) { p with house := { p.house with alarmState := .normal, acknowledged := false } }

theorem modHouse_putNotice (n : Notice) (f : HouseUnit → HouseUnit) (p : Blocks) : modHouse f (putNotice n p) = putNotice n (modHouse f p) := by
  unfold putNotice modHouse
  dsimp only
  split <;> rfl

/-- The part after the end of its override show, where one runs (R169). -/
def overrideEnded (p : Blocks) : Blocks :=
  match overrideSlot p with
  | none => p
  | some k => endSlots [(k, .stopped)] p

theorem overrideEnded_slots (p : Blocks) : SlotsFrame p (overrideEnded p) := by
  unfold overrideEnded
  split
  · exact SlotsFrame.refl p
  · exact slotsFrame.endSlots _ p

theorem overrideEnded_of_none {p : Blocks} (idle : ∀ id, p.store.settings.overrideShow = some id → slotHolding p id = none) : overrideEnded p = p := by
  unfold overrideEnded overrideSlot
  cases designated : p.store.settings.overrideShow with
  | none => rfl
  | some id => simp only [idle id designated]

theorem overrideEnded_of_holding {p : Blocks} {id k : Nat} (designated : p.store.settings.overrideShow = some id) (holds : slotHolding p id = some k) :
    overrideEnded p = endSlots [(k, .stopped)] p := by
  simp only [overrideEnded, overrideSlot, designated, holds]

/-- The end of the alarm (R169). -/
theorem resumeHouse_eq (p : Blocks) : resumeHouse p =
    if (alarmCleared (overrideEnded p)).house.mode = .opened then
      ((autostartIds (alarmCleared (overrideEnded p))).length,
        (autostartIds (alarmCleared (overrideEnded p))).foldl afterAutostart (alarmCleared (overrideEnded p)))
    else (0, alarmCleared (overrideEnded p)) := by
  have cleared : modHouse (fun h => { h with acknowledged := false }) (putNotice (.alarm .cleared) (modHouse (fun h => { h with alarmState := .normal })
      (overrideEnded p))) = alarmCleared (overrideEnded p) := modHouse_putNotice _ _ _
  rw [← autostarts_eq, ← autostartShows_eq, ← cleared]
  rfl

theorem alarmCleared_mode (p : Blocks) : (alarmCleared (overrideEnded p)).house.mode = p.house.mode := by
  have same : (overrideEnded p).house.mode = p.house.mode := by rw [(overrideEnded_slots p).house]
  rw [alarmCleared, putNotice_house]
  exact same

section
variable {p : Blocks}

theorem askResume_of_normal (normal : p.house.alarmState = .normal) : askResume p = (.refused .notInAlarm, p) := by
  simp only [askResume, normal, refuseAs]

theorem askResume_of_alarm (alarm : p.house.alarmState = .alarm) : askResume p = (.refused .alarm, p) := by
  simp only [askResume, alarm, refuseAs]

variable (held : p.house.alarmState = .alarmHeld)
include held

theorem askResume_of_unacknowledged (open_ : p.house.acknowledged = false) : askResume p = (.refused .notAcknowledged, p) := by
  simp only [askResume, held, open_, Bool.false_eq_true, if_false, refuseAs]

theorem askResume_of_acknowledged (acknowledged : p.house.acknowledged = true) : askResume p = (.ok (.resumed (resumeHouse p).1), (resumeHouse p).2) := by
  simp only [askResume, held, acknowledged, if_true]

end

/-- Settles O38. -/
theorem acknowledgeAndResume : Obligations.AcknowledgeAndResume := by
  refine ⟨fun s tag prompt => ⟨fun normal => ?_, fun alarm => ?_⟩,
    fun s tag ready => ⟨fun normal => ?_, fun alarm => ?_, fun held open_ => ?_, fun held acknowledged => ?_⟩⟩
  · exact prompt_refused prompt rfl rfl (congrArg (answerWith tag 33) (askAlarmAck_of_normal normal))
  · exact prompt_ok prompt rfl rfl (congrArg (answerWith tag 33) (askAlarmAck_of_alarm alarm)) rfl rfl
  · exact repliesRefused_of ready rfl (congrArg (answerWith tag 34) (askResume_of_normal normal))
  · exact repliesRefused_of ready rfl (congrArg (answerWith tag 34) (askResume_of_alarm alarm))
  · exact repliesRefused_of ready rfl (congrArg (answerWith tag 34) (askResume_of_unacknowledged held open_))
  · have ask := askResume_of_acknowledged held acknowledged
    rw [resumeHouse_eq, alarmCleared_mode] at ask
    refine ⟨overrideEnded s.part, alarmCleared (overrideEnded s.part), overrideEnded_slots s.part, overrideEnded_of_none,
      fun id k designated holds => overrideEnded_of_holding designated holds, rfl, fun closed => ?_, fun opened => ?_⟩
    · have shut : ¬ s.part.house.mode = .opened := fun opened => nomatch closed.symm.trans opened
      rw [if_neg shut] at ask
      exact repliesOk_of ready rfl (congrArg (answerWith tag 34) ask)
    · rw [if_pos opened] at ask
      exact repliesOk_of ready rfl (congrArg (answerWith tag 34) ask)

end Sys2Proof.Machine

/-! The obligations about the timebase, the day clock and the schedule (R147, R149 to R157). -/

namespace Sys2Proof.Machine

/-! ### SET-TIMEBASE (R151) -/

theorem timebaseOf_none {code : Nat} {rate : OptField}
    (bad : 1 < code ∨ code = 1 ∧ ∀ n ∈ [24, 25, 30, 50, 60], rate ≠ .present n) : timebaseOf code rate = none := by
  rcases bad with beyond | ⟨rfl, wrong⟩
  · rw [timebaseOf, timeSourceOf, pick_none (Nat.succ_le_of_lt beyond)]
    rfl
  · cases rate with
    | absent => rfl
    | malformed => rfl
    | present n => exact if_neg fun member => wrong n member rfl

/-- The source and the rate that a request sets. -/
theorem timebaseOf_some {code : Nat} {rate : OptField} {src : TimeSource} {rt : Option Nat}
    (good : (code = 0 ∧ rate ≠ .malformed ∧ src = .internal ∧ rt = none) ∨
      (code = 1 ∧ src = .sync ∧ ∃ n ∈ [24, 25, 30, 50, 60], rate = .present n ∧ rt = some n)) : timebaseOf code rate = some (src, rt) := by
  rcases good with ⟨rfl, wellFormed, rfl, rfl⟩ | ⟨rfl, rfl, n, member, rfl, rfl⟩
  · cases rate with
    | absent => rfl
    | present n => rfl
    | malformed => exact absurd rfl wellFormed
  · exact if_pos member

/-- Settles O32. -/
theorem setTimebaseWritesTheSource : Obligations.SetTimebaseWritesTheSource := by
  intro s tag code rate src rt ready
  refine ⟨fun bad => ?_, fun good => ⟨fun source same => ?_, fun moved => ⟨_, rfl, ?_⟩⟩⟩
  · exact repliesRefused_of ready rfl (congrArg (answerWith tag 26) (by rw [askSetTimebase, timebaseOf_none bad]; rfl))
  · refine repliesOk_of ready rfl (congrArg (answerWith tag 26) ?_)
    rw [askSetTimebase, timebaseOf_some good]
    exact if_pos ⟨source, same⟩
  · refine repliesOk_of ready rfl (congrArg (answerWith tag 26) ?_)
    rw [askSetTimebase, timebaseOf_some good]
    refine (if_neg fun ⟨source, same⟩ => moved.elim (absurd source) (absurd same)).trans ?_
    cases src with
    | internal => rfl
    | sync => rfl

/-! ### Sync pulses (R147, R149, R150) -/

theorem pulseGood_iff (rate q t : Nat) : pulseGood rate q t = true ↔ 900000000 ≤ (t - q) * rate ∧ (t - q) * rate ≤ 1100000000 := by
  simp only [pulseGood, Bool.and_eq_true, decide_eq_true_iff]

/-- The first instant of a new grid is not earlier than the oscillator's next tick, and no earlier instant is so (R149). -/
theorem firstInstant_spec {rate t i : Nat} (due : Int) (positive : 0 < rate * i) :
    due ≤ 100 * (t : Int) + (firstInstant rate t i due : Int) * rate * i ∧
      ∀ m < firstInstant rate t i due, 100 * (t : Int) + (m : Int) * rate * i < due := by
  obtain ⟨late, wait⟩ : ∃ late : Nat, late = (due - 100 * (t : Int)).toNat := ⟨_, rfl⟩
  have first : firstInstant rate t i due = (late + rate * i - 1) / (rate * i) := by rw [wait]; rfl
  have place (m : Nat) : (m : Int) * rate * i = ((m * (rate * i) : Nat) : Int) := by push_cast; ring
  rw [first]
  constructor
  · have reached : late ≤ (late + rate * i - 1) / (rate * i) * (rate * i) := by
      have split := Nat.div_add_mod' (late + rate * i - 1) (rate * i)
      have := Nat.mod_lt (late + rate * i - 1) positive
      omega
    rw [place]
    omega
  · intro m before
    have short := (Nat.le_div_iff_mul_le positive).mp (Nat.succ_le_of_lt before)
    rw [Nat.succ_mul] at short
    rw [place]
    omega

section
variable {u : TimeUnit} {rate q t : Nat}

theorem pulseAfter_locked_bad {g : PulseGrid} (locked : u.state = .locked) (grid : u.grid = some g) (bad : pulseGood rate q t = false) :
    pulseAfter rate q t u = ({ u with lastPulse := some t, grid := some { g with latest := g.latest + 1 } }, false) := by
  simp only [pulseAfter, locked, grid, bad, Bool.false_eq_true, if_false]

theorem pulseAfter_locked_good {g : PulseGrid} (locked : u.state = .locked) (grid : u.grid = some g) (good : pulseGood rate q t = true) :
    pulseAfter rate q t u = ({ u with
      lastPulse := some t
      grid := some { g with latest := g.latest + 1, goodTime := t, goodNumber := g.latest + 1, interval := t - q } }, false) := by
  simp only [pulseAfter, locked, grid, good, if_true]

variable (lost : u.state = .syncLost)
include lost

theorem pulseAfter_lost_bad (bad : pulseGood rate q t = false) : pulseAfter rate q t u = ({ u with lastPulse := some t, goodCount := 0 }, false) := by
  simp only [pulseAfter, lost, bad, Bool.false_eq_true, if_false]

theorem pulseAfter_lost_counts (good : pulseGood rate q t = true) (few : u.goodCount + 1 < 8) :
    pulseAfter rate q t u = ({ u with lastPulse := some t, goodCount := u.goodCount + 1 }, false) := by
  simp only [pulseAfter, lost, good, few, if_true]

theorem pulseAfter_lost_locks (good : pulseGood rate q t = true) (enough : 8 ≤ u.goodCount + 1) :
    pulseAfter rate q t u = ({ u with
      lastPulse := some t, goodCount := 8, state := .locked
      grid := some { latest := 0, goodTime := t, goodNumber := 0, interval := t - q
                     nextIndex := firstInstant rate t (t - q) (u.lastTick + 1000000000) } }, true) := by
  simp only [pulseAfter, lost, good, Nat.not_lt.mpr enough, if_true, if_false]

end

section
variable {p : Blocks} {t : Nat}

theorem syncPulse_disregarded (off : p.store.loading = true ∨ p.store.settings.source = .internal) : syncPulse t p = p :=
  by
  refine if_pos ?_
  rcases off with loading | internal
  · rw [loading, Bool.true_or]
  · rw [decide_eq_true internal, Bool.or_true]

variable (loaded : p.store.loading = false) (sync : p.store.settings.source = .sync)
include loaded sync

theorem syncPulse_first (none : p.time.lastPulse = none) : syncPulse t p = { p with time := { p.time with lastPulse := some t } } := by
  simp only [syncPulse, loaded, sync, none, reduceCtorEq, decide_false, Bool.or_self, Bool.false_eq_true, if_false]
  rfl

theorem syncPulse_next {q : Nat} {u : TimeUnit} (before : p.time.lastPulse = some q)
    (after : pulseAfter (p.store.settings.rate.getD 25) q t p.time = (u, false)) : syncPulse t p = { p with time := u } := by
  simp only [syncPulse, loaded, sync, before, nominalRate, after, reduceCtorEq, decide_false, Bool.or_self, Bool.false_eq_true, if_false]
  rfl

theorem syncPulse_locks {q : Nat} {u : TimeUnit} (before : p.time.lastPulse = some q)
    (after : pulseAfter (p.store.settings.rate.getD 25) q t p.time = (u, true)) :
    syncPulse t p = putNotice (.sync true (p.store.settings.rate.getD 25)) { p with time := u } := by
  simp only [syncPulse, loaded, sync, before, nominalRate, after, reduceCtorEq, decide_false, Bool.or_self, Bool.false_eq_true, if_false, if_true]
  rfl

end

theorem syncLoss_of_unlocked {p : Blocks} (free : p.time.state ≠ .locked) : syncLoss p = p := by
  cases state : p.time.state with
  | internal => simp only [syncLoss, state]
  | syncLost => simp only [syncLoss, state]
  | locked => exact absurd state free

theorem syncLoss_of_locked {p : Blocks} (locked : p.time.state = .locked) : syncLoss p =
    putNotice (.sync false (p.store.settings.rate.getD 25))
      { p with time := { p.time with state := .syncLost, goodCount := 0, lastPulse := none, grid := none } } := by
  simp only [syncLoss, locked]
  rfl

/-- Settles O33. -/
theorem syncPulsesLockTheTimebase : Obligations.SyncPulsesLockTheTimebase := by
  intro s t
  have event {q : Blocks} (h : syncPulse t s.part = q) : exec (.syncPulse t) s = becomes s (finish q) := congrArg (fun q => becomes s (finish q)) h
  have loses {q : Blocks} (h : syncLoss s.part = q) : exec .syncLost s = becomes s (finish q) := congrArg (fun q => becomes s (finish q)) h
  refine ⟨fun off => event (syncPulse_disregarded off), fun loaded sync => ⟨fun none => event (syncPulse_first loaded sync none), ?_⟩,
    fun free => loses (syncLoss_of_unlocked free), fun locked => loses (syncLoss_of_locked locked)⟩
  rintro q _ _ before rfl rfl
  have bad (h : ¬ (900000000 ≤ (t - q) * s.part.store.settings.rate.getD 25 ∧ (t - q) * s.part.store.settings.rate.getD 25 ≤ 1100000000)) :
      pulseGood (s.part.store.settings.rate.getD 25) q t = false := Bool.eq_false_iff.mpr fun good => h ((pulseGood_iff _ q t).mp good)
  have next {u : TimeUnit} (after : pulseAfter (s.part.store.settings.rate.getD 25) q t s.part.time = (u, false)) :=
    event (syncPulse_next loaded sync before after)
  refine ⟨fun lost => ⟨fun h => next (pulseAfter_lost_bad lost (bad h)),
      fun good few => next (pulseAfter_lost_counts lost ((pulseGood_iff _ q t).mpr good) few), fun good enough =>
        ⟨firstInstant (s.part.store.settings.rate.getD 25) t (t - q) (s.part.time.lastTick + 1000000000), ?_, ?_⟩⟩,
    fun g locked grid => ⟨fun h => next (pulseAfter_locked_bad locked grid (bad h)),
      fun good => next (pulseAfter_locked_good locked grid ((pulseGood_iff _ q t).mpr good))⟩⟩
  · exact event (syncPulse_locks loaded sync before (pulseAfter_lost_locks lost ((pulseGood_iff _ q t).mpr good) enough))
  · apply firstInstant_spec
    rw [Nat.mul_comm]
    omega

/-! ### The day clock (R152, R153) -/

theorem nextSecond_eq (u : TimeUnit) : u.nextSecond =
    { u with
      second := if u.second < 86399 then u.second + 1 else 0
      weekday := if u.second < 86399 then u.weekday else if u.weekday < 6 then u.weekday + 1 else 0
      fraction := 0 } := by
  unfold TimeUnit.nextSecond
  split
  · rfl
  · rfl

theorem askSetTime_none {second weekday : Nat} (p : Blocks) (bad : 86399 < second ∨ 6 < weekday) :
    askSetTime second weekday p = (.refused .badField, p) := by
  unfold askSetTime
  split
  · rename_i s d hs hd
    have hs := (within_eq_some.mp hs).1.2
    have hd := (within_eq_some.mp hd).1.2
    omega
  · rfl

theorem askSetTime_some {second weekday : Nat} (p : Blocks) (low : second ≤ 86399) (day : weekday ≤ 6) :
    askSetTime second weekday p = (.ok (.clock second weekday),
      { p with time := { p.time with second := second, weekday := weekday, fraction := 0, valid := true } }) := by
  rw [askSetTime, within_eq_some.mpr ⟨⟨Nat.zero_le _, low⟩, rfl⟩, within_eq_some.mpr ⟨⟨Nat.zero_le _, day⟩, rfl⟩]
  rfl

/-- The clock one second on. -/
def clockNext (p : Blocks) : Blocks :=
  { p with
    time := { p.time with
      second := if p.time.second < 86399 then p.time.second + 1 else 0
      weekday := if p.time.second < 86399 then p.time.weekday else if p.time.weekday < 6 then p.time.weekday + 1 else 0
      fraction := 0 } }

theorem dayAdvance_eq (p : Blocks) : dayAdvance p =
    if p.time.valid && !p.store.loading then fireEntries (clockNext p) else clockNext p := by
  have next : modTime TimeUnit.nextSecond p = clockNext p := by rw [modTime, nextSecond_eq]; rfl
  rw [dayAdvance, next]
  rfl

/-- Settles O34. -/
theorem theDayClockCounts : Obligations.TheDayClockCounts := by
  refine ⟨fun p => ⟨fun counts => if_pos counts, fun full => if_neg (Nat.not_lt.mpr full), clockNext p, rfl, fun off => ?_, fun valid loaded => ?_⟩,
    fun s => rfl, fun s tag second weekday ready => ⟨fun bad => ?_, fun low day => ?_, fun valid => ?_, fun invalid => ?_⟩⟩
  · rw [dayAdvance_eq]
    rcases off with invalid | loading
    · rw [invalid]; rfl
    · rw [loading, Bool.not_true, Bool.and_false]; rfl
  · rw [dayAdvance_eq, valid, loaded]
    rfl
  · exact repliesRefused_of ready rfl (congrArg (answerWith tag 27) (askSetTime_none s.part bad))
  · exact repliesOk_of ready rfl (congrArg (answerWith tag 27) (askSetTime_some s.part low day))
  · exact repliesOk_of ready rfl (congrArg (answerWith tag 28) (if_pos valid : askGetTime s.part = _))
  · exact repliesRefused_of ready rfl (congrArg (answerWith tag 28) (if_neg (ne_true_of_eq_false invalid) : askGetTime s.part = _))

/-! ### SET-ENTRY (R154, R157) -/

theorem entryActionOf_code (a : EntryAction) : entryActionOf (codeOf [.start, .startSet, .stop, .openHouse, .closeHouse] a) = some a := by cases a <;> rfl

/-- A wake set as a request carries it. -/
def wakeField : Option WakeSet → WakeField
  | none => .absent
  | some w => .present { schedule := w.schedule.toNat, trigger := w.trigger.toNat }

/-- An entry is read back from a request by what its action makes of the target and the wake set carried. -/
theorem scheduleOf_request (e : Nat) {en : ScheduleEntry} {t : OptField} {w : WakeField} {tgt : Option Nat} {wake : Option WakeSet}
    (second : en.second ≤ 86399) (target : entryTarget en.action t = some tgt) (wakes : entryWake en.action w = some wake) :
    scheduleOf { en.request e with target := t, wake := w } = some { en with target := tgt, wake := wake } := by
  unfold scheduleOf ScheduleEntry.request
  simp only [yesNo_toNat, entryActionOf_code, within_eq_some.mpr ⟨⟨Nat.zero_le _, second⟩, rfl⟩, target, wakes, Option.bind_eq_bind, Option.bind_some]

/-- A request whose codes and fields are in their ranges (R154, R183). -/
theorem scheduleOf_fields {r : SetEntryReq} {en : ScheduleEntry} (read : scheduleOf r = some en) :
    r.enabled ≤ 1 ∧ r.second ≤ 86399 ∧ r.action ≤ 4 ∧ ∃ a tgt wake, entryActionOf r.action = some a ∧ entryTarget a r.target = some tgt ∧
      entryWake a r.wake = some wake := by
  unfold scheduleOf at read
  obtain ⟨_, enabled, read⟩ := Option.bind_eq_some_iff.mp read
  obtain ⟨_, second, read⟩ := Option.bind_eq_some_iff.mp read
  obtain ⟨a, action, read⟩ := Option.bind_eq_some_iff.mp read
  obtain ⟨tgt, target, read⟩ := Option.bind_eq_some_iff.mp read
  obtain ⟨wake, wakes, read⟩ := Option.bind_eq_some_iff.mp read
  exact ⟨Nat.le_of_lt_succ (pick_lt enabled), (within_eq_some.mp second).1.2, Nat.le_of_lt_succ (pick_lt action), a, tgt, wake, action, target, wakes⟩

theorem targetWithin_some {high : Nat} {t : OptField} {tgt : Option Nat} (h : targetWithin high t = some tgt) : ∃ v ≤ high, t = .present v := by
  cases t with
  | absent => exact nomatch h
  | malformed => exact nomatch h
  | present v => exact ⟨v, (Option.ite_none_right_eq_some.mp h).1, rfl⟩

/-- What SET-ENTRY refuses (R157). -/
theorem scheduleOf_none {r : SetEntryReq} (bad : 86399 < r.second ∨ 4 < r.action ∨ 1 < r.enabled ∨ (r.action = 4 ∧ r.wake = .absent) ∨
    ((r.action = 0 ∨ r.action = 2) ∧ ∀ id ≤ 63, r.target ≠ .present id) ∨ (r.action = 1 ∧ ∀ n ≤ 15, r.target ≠ .present n)) :
    scheduleOf r = none := by
  refine Option.eq_none_iff_forall_ne_some.mpr fun en read => ?_
  obtain ⟨enabled, second, action, a, tgt, wake, named, target, wakes⟩ := scheduleOf_fields read
  rcases bad with late | beyond | flag | ⟨close, absent⟩ | ⟨start, wrong⟩ | ⟨set, wrong⟩
  · omega
  · omega
  · omega
  · rw [close] at named
    cases named
    rw [absent] at wakes
    exact nomatch wakes
  · have within : targetWithin 63 r.target = some tgt := by
      rcases start with zero | two
      · rw [zero] at named
        cases named
        exact target
      · rw [two] at named
        cases named
        exact target
    obtain ⟨v, low, carried⟩ := targetWithin_some within
    exact wrong v low carried
  · rw [set] at named
    cases named
    obtain ⟨v, low, carried⟩ := targetWithin_some target
    exact wrong v low carried

theorem wakeOf_toNat (w : WakeSet) : wakeOf { schedule := w.schedule.toNat, trigger := w.trigger.toNat } = some w := wakeOf_some rfl rfl

/-- The target of an accepted entry is read back, and one carried with OPEN or CLOSE is disregarded. -/
theorem entryTarget_accepted {en : ScheduleEntry} (accepted : entryAccepted en) :
    entryTarget en.action (asField en.target) = some en.target ∧
      ∀ v, en.action = .openHouse ∨ en.action = .closeHouse → entryTarget en.action (.present v) = some en.target := by
  obtain ⟨_, fits⟩ := accepted
  cases action : en.action with
  | start =>
    rw [action] at fits
    exact ⟨targetWithin_asField.mpr ⟨fits.1, rfl⟩, fun _ other => other.elim nofun nofun⟩
  | startSet =>
    rw [action] at fits
    exact ⟨targetWithin_asField.mpr ⟨fits.1, rfl⟩, fun _ other => other.elim nofun nofun⟩
  | stop =>
    rw [action] at fits
    exact ⟨targetWithin_asField.mpr ⟨fits.1, rfl⟩, fun _ other => other.elim nofun nofun⟩
  | openHouse =>
    rw [action] at fits
    rw [fits.1]
    exact ⟨rfl, fun _ _ => rfl⟩
  | closeHouse =>
    rw [action] at fits
    rw [fits.1]
    exact ⟨rfl, fun _ _ => rfl⟩

/-- The wake set of an accepted entry is read back, and one carried with another action than CLOSE is disregarded. -/
theorem entryWake_accepted {en : ScheduleEntry} (accepted : entryAccepted en) :
    entryWake en.action (wakeField en.wake) = some en.wake ∧ ∀ w, en.action ≠ .closeHouse → entryWake en.action (.present w) = some en.wake := by
  obtain ⟨_, fits⟩ := accepted
  cases action : en.action with
  | start =>
    rw [action] at fits
    rw [fits.2]
    exact ⟨rfl, fun _ _ => rfl⟩
  | startSet =>
    rw [action] at fits
    rw [fits.2]
    exact ⟨rfl, fun _ _ => rfl⟩
  | stop =>
    rw [action] at fits
    rw [fits.2]
    exact ⟨rfl, fun _ _ => rfl⟩
  | openHouse =>
    rw [action] at fits
    rw [fits.2]
    exact ⟨rfl, fun _ _ => rfl⟩
  | closeHouse =>
    rw [action] at fits
    obtain ⟨w, some⟩ := Option.ne_none_iff_exists'.mp fits.2
    rw [some]
    exact ⟨congrArg (Option.map Option.some) (wakeOf_toNat w), fun _ other => absurd rfl other⟩

section
variable {r : SetEntryReq} {p : Blocks}

theorem askSetEntry_of_gt (h : 95 < r.entry) : askSetEntry r p = (.refused .badField, p) := if_pos h

theorem askSetEntry_of_none (h : scheduleOf r = none) : askSetEntry r p = (.refused .badField, p) := by
  unfold askSetEntry
  rw [h]
  exact ite_self _

theorem askSetEntry_of_some {en : ScheduleEntry} (inRange : r.entry ≤ 95) (h : scheduleOf r = some en) : askSetEntry r p =
    (.ok (.entry r.entry en), setSettings { p.store.settings with entries := tset p.store.settings.entries r.entry en } p) := by
  unfold askSetEntry
  rw [h]
  exact if_neg (Nat.not_lt.mpr inRange)

end

/-! ### The schedule fires (R155, R156) -/

theorem mem_firingEntries (p : Blocks) (second weekday e : Nat) : e ∈ firingEntries p second weekday ↔
    e < 96 ∧ (tget p.store.settings.entries e).enabled = true ∧ (tget p.store.settings.entries e).second = second ∧
      (tget p.store.settings.entries e).mask.getLsbD weekday = true := by
  unfold firingEntries
  rw [List.mem_filter, List.mem_range]
  simp only [Bool.and_eq_true, decide_eq_true_iff, and_assoc]

section
variable {p : Blocks} {e : Nat} {en : ScheduleEntry} (written : en = tget p.store.settings.entries e)
include written

theorem entryAction_start_alarm (start : en.action = .start) (alarm : p.house.alarmState ≠ .normal) :
    entryAction e p = putNotice (.startRefused (.schedule e) en.target .alarm .check) p := by
  subst written
  simp only [entryAction, start, (underAlarm_iff p).mpr alarm, if_true, entryUnderAlarm]

theorem entryAction_set_alarm (set : en.action = .startSet) (alarm : p.house.alarmState ≠ .normal) :
    entryAction e p = putNotice (.startRefused (.schedule e) none .alarm .check) p := by
  subst written
  simp only [entryAction, set, (underAlarm_iff p).mpr alarm, if_true, entryUnderAlarm]

theorem entryAction_other_alarm (other : en.action = .stop ∨ en.action = .openHouse) (alarm : p.house.alarmState ≠ .normal) : entryAction e p = p := by
  subst written
  rcases other with stop | opens
  · simp only [entryAction, stop, (underAlarm_iff p).mpr alarm, if_true, entryUnderAlarm]
  · simp only [entryAction, opens, (underAlarm_iff p).mpr alarm, if_true]

variable (normal : p.house.alarmState = .normal)

section
include normal

theorem entryAction_closed (acts : en.action = .start ∨ en.action = .startSet ∨ en.action = .stop) (closed : p.house.mode = .closed) :
    entryAction e p = p := by
  subst written
  rcases acts with action | action | action <;>
    simp only [entryAction, action, underAlarm_of_normal normal, closed, Bool.false_eq_true, reduceCtorEq, if_false]

theorem entryAction_start (start : en.action = .start) {id : Nat} (target : en.target = some id) (opened : p.house.mode = .opened) :
    entryAction e p = (startReported true false (.schedule e) id p).2 := by
  subst written
  simp only [entryAction, start, underAlarm_of_normal normal, opened, Bool.false_eq_true, if_false, if_true, target, entryInOpen]

theorem entryAction_set (set : en.action = .startSet) {n : Nat} (target : en.target = some n) (opened : p.house.mode = .opened) :
    entryAction e p = startSetBy true n p := by
  subst written
  simp only [entryAction, set, underAlarm_of_normal normal, opened, Bool.false_eq_true, if_false, if_true, target, entryInOpen]

theorem entryAction_stop (stop : en.action = .stop) {id : Nat} (target : en.target = some id) (opened : p.house.mode = .opened) :
    entryAction e p = stopHolding id p := by
  subst written
  simp only [entryAction, stop, underAlarm_of_normal normal, opened, Bool.false_eq_true, if_false, if_true, target, entryInOpen]

theorem entryAction_open (opens : en.action = .openHouse) : entryAction e p = scheduleOpen e p := by
  subst written
  simp only [entryAction, opens, underAlarm_of_normal normal, Bool.false_eq_true, if_false]

end

theorem entryAction_close (closes : en.action = .closeHouse) {w : WakeSet} (wake : en.wake = some w) : entryAction e p = scheduleClose e w p := by
  subst written
  simp only [entryAction, closes, wake, Option.getD_some]

end

theorem startSetBy_of_undefined {report : Bool} {n : Nat} {p : Blocks} (none : (tget p.store.settings.sets n : Option SetSettings) = none) :
    startSetBy report n p = p := by
  rw [startSetBy, none]

theorem startSetBy_of_defined {report : Bool} {n : Nat} {st : SetSettings} {p : Blocks} (defined : (tget p.store.settings.sets n : Option SetSettings) = some st) :
    startSetBy report n p = (startDefinedSet report n st p).2 := by
  rw [startSetBy, defined]

theorem stopHolding_of_none {id : Nat} {p : Blocks} (none : slotHolding p id = none) : stopHolding id p = p := by rw [stopHolding, none]

theorem stopHolding_of_some {id k : Nat} {p : Blocks} (holds : slotHolding p id = some k) : stopHolding id p = endSlots [(k, .stopped)] p := by
  rw [stopHolding, holds]

section
variable {report restart : Bool} {origin : Origin} {id : Nat} {p q : Blocks}

theorem startReported_of_accepted {k : Nat} {o : StartOutcome} (out : startShow id origin restart p = (.accepted k o, q)) :
    (startReported report restart origin id p).2 = q := by
  rw [startReported, out]
  rfl

theorem startReported_of_refused {why : Reason} {step : RefusalStep} (out : startShow id origin restart p = (.refused why step, q)) :
    (startReported report restart origin id p).2 = if report = true then putNotice (.startRefused origin (some id) why step) q else q := by
  rw [startReported, out]
  rfl

end

/-- Settles O35. -/
theorem scheduleEntriesAreWrittenAndFire : Obligations.ScheduleEntriesAreWrittenAndFire := by
  refine ⟨fun s tag e en r ready => ⟨fun bad => ?_, fun inRange accepted => ?_⟩,
    fun p second weekday => ⟨List.pairwise_lt_range.filter _, mem_firingEntries p second weekday⟩,
    fun p e en written => ⟨entryAction_start_alarm written, entryAction_set_alarm written, entryAction_other_alarm written,
      fun acts normal closed => entryAction_closed written normal acts closed, fun id start target normal opened => ⟨fun k o q out => ?_, fun why step q out => ?_⟩,
      fun n set target normal opened => ⟨fun none => ?_, fun st defined => ?_⟩,
      fun id stop target normal opened => ⟨fun none => ?_, fun k holds => ?_⟩, fun opens normal => ⟨fun closed wakes => ?_, fun stays => ?_⟩,
      fun w closes wake => ⟨fun q out => ?_, fun n q out => ?_⟩⟩⟩
  · have refused (ask : askSetEntry r s.part = (.refused .badField, s.part)) : exec (.setEntry tag r) s = repliesRefused s tag 29 .badField :=
      repliesRefused_of ready rfl (congrArg (answerWith tag 29) ask)
    rcases bad with beyond | bad
    · exact refused (askSetEntry_of_gt beyond)
    · exact refused (askSetEntry_of_none (scheduleOf_none bad))
  · obtain ⟨target, anyTarget⟩ := entryTarget_accepted accepted
    obtain ⟨wake, anyWake⟩ := entryWake_accepted accepted
    have plain := askSetEntry_of_some (p := s.part) (r := en.request e) inRange (scheduleOf_request e accepted.1 target wake)
    refine ⟨repliesOk_of ready rfl (congrArg (answerWith tag 29) plain), fun v acts => ?_, fun w acts => ?_⟩
    · have carried := askSetEntry_of_some (p := s.part) (r := { en.request e with target := .present v }) inRange
        (scheduleOf_request e accepted.1 (anyTarget v acts) wake)
      exact replies_alike ready rfl rfl (congrArg (answerWith tag 29) (carried.trans plain.symm))
    · have carried := askSetEntry_of_some (p := s.part) (r := { en.request e with wake := .present w }) inRange
        (scheduleOf_request e accepted.1 target (anyWake w acts))
      exact replies_alike ready rfl rfl (congrArg (answerWith tag 29) (carried.trans plain.symm))
  · rw [entryAction_start written normal start target opened, startReported_of_accepted out]
  · rw [entryAction_start written normal start target opened, startReported_of_refused out, if_pos rfl]
  · rw [entryAction_set written normal set target opened, startSetBy_of_undefined none]
  · rw [entryAction_set written normal set target opened, startSetBy_of_defined defined]
  · rw [entryAction_stop written normal stop target opened, stopHolding_of_none none]
  · rw [entryAction_stop written normal stop target opened, stopHolding_of_some holds]
  · rw [entryAction_open written normal opens, scheduleOpen, if_pos ⟨closed, wakes⟩, opening_eq]
  · rw [entryAction_open written normal opens, scheduleOpen, if_neg]
    rintro ⟨closed, wakes⟩
    exact stays.elim (fun opened => nomatch opened.symm.trans closed) fun off => Bool.false_ne_true (off.symm.trans wakes)
  · rw [entryAction_close written closes wake, scheduleClose, out]
  · rw [entryAction_close written closes wake, scheduleClose, out]

end Sys2Proof.Machine

/-! The obligations about the immediate requests: GET-STATUS, STOP-ALL and RESET (R179 to R181). -/

namespace Sys2Proof.Machine

/-! ### GET-STATUS (R179) -/

/-- The number of slots of a list in a state, and of those that are FREE. -/
def countsOver (p : Blocks) (ks : List Nat) : List Nat :=
  (ks.filter (fun k => slotOf p k = none)).length ::
    [SlotState.pending, .priming, .running, .held, .suspended].map
      (fun st => (ks.filter (fun k => (slotOf p k).map (fun r => r.state) = some st)).length)

/-- Each slot is counted in one state. -/
theorem countsOver_sum (p : Blocks) (ks : List Nat) : (countsOver p ks).sum = ks.length := by
  induction ks with
  | nil => rfl
  | cons k ks ih =>
    unfold countsOver at ih ⊢
    simp only [List.map_cons, List.map_nil, List.sum_cons, List.sum_nil, List.filter_cons, List.length_cons] at ih ⊢
    cases h : slotOf p k with
    | none =>
      simp only [Option.map_none, decide_true, if_true, reduceCtorEq, decide_false, Bool.false_eq_true, if_false, List.length_cons]
      omega
    | some r =>
      cases state : r.state <;>
      · simp only [Option.map_some, state, Option.some.injEq, decide_true, if_true, reduceCtorEq, decide_false, Bool.false_eq_true, if_false,
          List.length_cons]
        omega

theorem slotsIn_eq (p : Blocks) (st : SlotState) :
    slotsIn p st = ((List.range 16).filter (fun k => (slotOf p k).map (fun r => r.state) = some st)).length := by
  unfold slotsIn slotNumbers
  congr 2
  funext k
  cases slotOf p k with
  | none => rfl
  | some r => simp

theorem slotCounts_eq (p : Blocks) : slotCounts p = countsOver p (List.range 16) := by
  unfold slotCounts countsOver slotNumbers
  have free : (fun k => (slotOf p k).isNone) = fun k => decide (slotOf p k = none) := by
    funext k
    cases slotOf p k <;> rfl
  simp only [slotsIn_eq, free, List.map_cons, List.map_nil]

/-- Settles O40. -/
theorem getStatusReportsTheItems : Obligations.GetStatusReportsTheItems := by
  intro s tag prompt
  refine ⟨countsOver s.part (List.range 16), (countsOver_sum _ _).trans List.length_range, rfl, ?_⟩
  rw [← slotCounts_eq]
  exact prompt_ok prompt rfl rfl rfl rfl rfl

/-! ### Every slot ends (R37, R66, R69) -/

/-- An ending writes the slot, its show's rest, the wait order, the groups, what is foreseen and a notice. -/
theorem finishSlot_shape {p : Blocks} {k : Nat} {r : SlotRec} (h : slotOf p k = some r) (why : EndReason) : ∃ f gs ws, finishSlot k why p =
    { putNotice (.showEnded k r.showId r.origin why (endStep why r) r.skipped) p with
      map := { p.map with waitOrder := ws }
      runner := { slots := tset p.runner.slots k none, rest := tset p.runner.rest r.showId (loadTimer (restOf p r.showId)), groups := gs, foresight := f } } := by
  obtain ⟨q, put⟩ : ∃ q, q = putNotice (.showEnded k r.showId r.origin why (endStep why r) r.skipped) p := ⟨_, rfl⟩
  have runner : q.runner = p.runner := by rw [put]; exact putNotice_runner _ p
  have noticed : putNotice (.showEnded k r.showId r.origin why (endStep why r) r.skipped) (leaveWait k p) =
      { q with map := { p.map with waitOrder := p.map.waitOrder.filter (fun j => decide (j ≠ k)) } } := by
    rw [put]
    unfold putNotice leaveWait
    dsimp only
    split <;> rfl
  have busy : slotOf (putNotice (.showEnded k r.showId r.origin why (endStep why r) r.skipped) (leaveWait k p)) k = some r := by
    rw [slotOf_putNotice]
    exact h
  rw [finishSlot_eq h why, leaveGroup_some busy, setSlot_setSlot, noticed, ← put, ← runner]
  exact ⟨q.runner.foresight.after k, q.runner.groups.map (fun g =>
    { g with leaderIn := g.leaderIn && decide (g.leader ≠ k), followers := g.followers.filter (fun f => decide (f ≠ k)) }),
    p.map.waitOrder.filter (fun j => decide (j ≠ k)), rfl⟩

/-- What the endings of several slots, without their entries, leave and write. -/
structure AllFinished (why : EndReason) (ks : List Nat) (p q : Blocks) : Prop where
  bus : q.bus = p.bus
  counter : q.map.waitCounter = p.map.waitCounter
  slots : ∀ j, slotOf q j = if j ∈ ks then none else slotOf p j
  notices : p.link.notices.length + ks.length ≤ 32 → q.link.lost = p.link.lost ∧ q.link.notices = p.link.notices ++
    ks.filterMap (fun k => (slotOf p k).map (fun r => .showEnded k r.showId r.origin why (endStep why r) r.skipped))
  spared : ∀ id, (∀ k ∈ ks, ∀ r, slotOf p k = some r → r.showId ≠ id) → (tget q.runner.rest id : Option Timer) = tget p.runner.rest id
  rested : ∀ k ∈ ks, ∀ r, slotOf p k = some r → r.showId < 64 → (tget q.runner.rest r.showId : Option Timer) = loadTimer (restOf p r.showId)

theorem allFinished (why : EndReason) (ks : List Nat) {p : Blocks} (once : ks.Nodup) (busy : ∀ k ∈ ks, slotOf p k ≠ none) :
    AllFinished why ks p (ks.foldl (fun q k => finishSlot k why q) p) := by
  induction ks generalizing p with
  | nil => exact ⟨rfl, rfl, fun j => (if_neg List.not_mem_nil).symm, fun _ => ⟨rfl, (List.append_nil _).symm⟩, fun _ _ => rfl, nofun⟩
  | cons k ks ih =>
    rw [List.nodup_cons] at once
    rw [List.forall_mem_cons] at busy
    obtain ⟨r, holds⟩ := Option.ne_none_iff_exists'.mp busy.1
    obtain ⟨f, gs, ws, shape⟩ := finishSlot_shape holds why
    obtain ⟨p1, ended⟩ : ∃ p1, p1 = finishSlot k why p := ⟨_, rfl⟩
    rw [← ended] at shape
    have own : slotOf p1 k = none := by rw [shape]; exact tget_tset_self _ _ _ (slotOf_lt holds)
    have other : ∀ j, k ≠ j → slotOf p1 j = slotOf p j := fun j ne => by rw [shape]; exact tget_tset_ne _ _ _ _ ne
    have differs : ∀ j ∈ ks, k ≠ j := fun j member same => once.1 (same ▸ member)
    have rest : p1.runner.rest = tset p.runner.rest r.showId (loadTimer (restOf p r.showId)) := by rw [shape]
    have store : ∀ id, restOf p1 id = restOf p id := fun id => by
      unfold restOf showOf
      rw [shape, putNotice_store]
    have later := ih (p := p1) once.2 fun j member => by rw [other j (differs j member)]; exact busy.2 j member
    rw [List.foldl_cons, ← ended]
    refine ⟨later.bus.trans (by rw [shape]; exact putNotice_bus _ p), later.counter.trans (by rw [shape]), fun j => ?_, fun room => ?_, fun id spared => ?_,
      fun j member rj holdsj low => ?_⟩
    · rw [later.slots]
      by_cases same : k = j
      · subst same
        rw [if_neg once.1, if_pos List.mem_cons_self, own]
      · simp only [other j same, List.mem_cons, Ne.symm same, false_or]
    · rw [List.length_cons] at room
      have written : p1.link = { p.link with notices := p.link.notices ++ [.showEnded k r.showId r.origin why (endStep why r) r.skipped] } := by
        rw [shape, putNotice_of_lt _ (by omega)]
      obtain ⟨lost, notices⟩ := later.notices (by rw [written]; simp only [List.length_append, List.length_singleton]; omega)
      have same : ks.filterMap (fun j => (slotOf p1 j).map (fun r => Notice.showEnded j r.showId r.origin why (endStep why r) r.skipped)) =
          ks.filterMap (fun j => (slotOf p j).map (fun r => .showEnded j r.showId r.origin why (endStep why r) r.skipped)) :=
        List.filterMap_congr fun j member => by rw [other j (differs j member)]
      refine ⟨lost.trans (by rw [written]), notices.trans ?_⟩
      rw [written, same, List.filterMap_cons_some (by rw [holds]; rfl), List.append_assoc, List.singleton_append]
    · rw [later.spared id fun j member rj holdsj => spared j (List.mem_cons_of_mem _ member) rj (by rw [← other j (differs j member)]; exact holdsj), rest]
      exact tget_tset_ne _ _ _ _ (spared k List.mem_cons_self r holds)
    · rcases List.mem_cons.mp member with rfl | member
      · cases holds.symm.trans holdsj
        by_cases again : ∀ i ∈ ks, ∀ ri, slotOf p1 i = some ri → ri.showId ≠ r.showId
        · rw [later.spared _ again, rest]
          exact tget_tset_self _ _ _ low
        · push Not at again
          obtain ⟨i, member, ri, holdsi, same⟩ := again
          rw [← same, later.rested i member ri holdsi (same ▸ low), store]
      · rw [later.rested j member rj (by rw [other j (differs j member)]; exact holdsj) low, store]

theorem mem_busySlots (p : Blocks) (k : Nat) : k ∈ busySlots p ↔ slotOf p k ≠ none := by
  unfold busySlots slotNumbers
  rw [List.mem_filter, List.mem_range, Option.isSome_iff_ne_none]
  refine ⟨And.right, fun busy => ⟨?_, busy⟩⟩
  obtain ⟨r, holds⟩ := Option.ne_none_iff_exists'.mp busy
  exact slotOf_lt holds

theorem busySlots_eq (p : Blocks) : busySlots p = (List.range 16).filter (fun k => slotOf p k ≠ none) := by
  unfold busySlots slotNumbers
  congr 1
  funext k
  cases slotOf p k <;> rfl

theorem busySlots_length (p : Blocks) : (busySlots p).length ≤ 16 := (List.length_filter_le _ _).trans_eq List.length_range

/-- What is read of each busy slot is read of every slot that has a record. -/
theorem filterMap_busySlots {α : Type} (p : Blocks) (f : Nat → SlotRec → α) :
    (busySlots p).filterMap (fun k => (slotOf p k).map (f k)) = (List.range 16).filterMap (fun k => (slotOf p k).map (f k)) := by
  unfold busySlots slotNumbers
  rw [List.filterMap_filter]
  congr 1
  funext k
  cases slotOf p k <;> rfl

section
variable (why : EndReason) (p : Blocks)

theorem clearAll_finished : AllFinished why (busySlots p) p ((busySlots p).foldl (fun q k => finishSlot k why q) p) :=
  allFinished why (busySlots p) (List.nodup_range.filter _) fun k => (mem_busySlots p k).mp

theorem clearAll_bus : (clearAll why p).bus = p.bus := (clearAll_finished why p).bus

theorem clearAll_free (k : Nat) : slotOf (clearAll why p) k = none := by
  refine ((clearAll_finished why p).slots k).trans ?_
  split
  · rfl
  next idle => exact not_not.mp fun busy => idle ((mem_busySlots p k).mpr busy)

theorem clearAll_unowned (ch : Nat) : ownersOf (clearAll why p) ch = [] := by
  by_cases low : ch < 128
  · exact tget_replicate _ _ low
  · exact tget_of_le _ _ (Nat.le_of_not_lt low)

theorem clearAll_notices (room : p.link.notices.length ≤ 16) : (clearAll why p).link.lost = p.link.lost ∧
    (clearAll why p).link.notices = p.link.notices ++
      (List.range 16).filterMap (fun k => (slotOf p k).map (fun r => .showEnded k r.showId r.origin why (endStep why r) r.skipped)) := by
  have := busySlots_length p
  obtain ⟨lost, notices⟩ := (clearAll_finished why p).notices (by omega)
  exact ⟨lost, notices.trans (congrArg _ (filterMap_busySlots p _))⟩

variable {p}

theorem clearAll_rested {k : Nat} {r : SlotRec} {sh : ShowRecord} (holds : slotOf p k = some r) (stored : showOf p r.showId = some sh) :
    (tget (clearAll why p).runner.rest r.showId : Option Timer) = loadTimer sh.rest := by
  rw [← restOf_stored stored]
  exact (clearAll_finished why p).rested k ((mem_busySlots p k).mpr (by rw [holds]; exact Option.some_ne_none r)) r holds (showOf_lt stored)

end

/-- Settles O41: the endings one after the other, and then the stacks cleared. -/
theorem stopAllEndsEverySlot : Obligations.StopAllEndsEverySlot := by
  intro s tag prompt
  have ended := clearAll_finished .stopped s.part
  have frame : SlotsFrame s.part (clearAll .stopped s.part) := slotsFrame.clearAll .stopped s.part
  have filtered : SlotsFrame (clearAll .stopped s.part) (withdrawSlots (clearAll .stopped s.part)) := by constructor <;> rfl
  have withdrawn : SlotsFrame s.part (askStopAll s.part).2 := (frame.trans filtered).trans (offerFrame_offer hushTx _).others
  refine ⟨clearAll .stopped s.part, ?_, frame, ended.bus, clearAll_free .stopped s.part, clearAll_unowned .stopped s.part, rfl, ended.counter, rfl,
    clearAll_notices .stopped s.part, fun id spared => ?_, fun k r sh holds stored => ?_⟩
  · rw [← busySlots_eq]
    exact prompt_ok prompt rfl rfl (rfl : _ = answerWith tag 37 (askStopAll s.part)) withdrawn.store withdrawn.requests
  · exact ended.spared id fun k _ r holds => spared k r holds
  · exact (clearAll_rested .stopped holds stored).trans (loadTimer_eq _)

/-! ### RESET (R181) -/

theorem offer_hush_busy {p : Blocks} {j : BusJob} (busy : p.bus.job = some j) :
    hushNow p = { p with bus := { p.bus with queue := [hushTx] } } := takeHead_busy (p := { p with bus := { p.bus with queue := [hushTx] } }) busy

theorem offer_hush_free {p : Blocks} (loaded : p.store.loading = false) (free : p.bus.job = none) :
    hushNow p = { p with bus := { p.bus with
      queue := []
      job := some { tx := { hushTx with attempts := 1 }, timeout := p.store.settings.replyTimeout, retries := p.store.settings.retryCount } } } := by
  have queued : hushNow p = takeHead { p with bus := { p.bus with queue := [hushTx] } } := rfl
  rw [queued, takeHead]
  simp only [free, loaded]
  rfl

/-- The POLLs of a reset (R109). -/
def resetPolls (p : Blocks) : List Nat := (List.range 33).filter (fun n => 1 ≤ n ∧ nodeReferenced p.store.settings n)

theorem resetPolls_length (p : Blocks) : (resetPolls p).length ≤ 33 := (List.length_filter_le _ _).trans_eq List.length_range

theorem pollReferenced_busy {p : Blocks} {j : BusJob} {q : List Transaction} (busy : p.bus.job = some j) (queue : p.bus.queue = q) (short : q.length ≤ 1) :
    pollReferenced p = { p with bus := { p.bus with queue := q ++ (resetPolls p).map pollTx } } := by
  have few := resetPolls_length p
  rw [pollReferenced_eq]
  exact offers_queue (ns := resetPolls p) busy queue (by omega)

/-- A reset's HUSH goes first, to a free bus at once; its POLLs wait behind it (log entry 8). -/
theorem hush_polls {p : Blocks} (loaded : p.store.loading = false) : ∃ b, pollReferenced (hushNow p) = { p with bus := b } ∧
    b.nodes = p.bus.nodes ∧ b.pollTicks = p.bus.pollTicks ∧
    (∀ j, p.bus.job = some j → b.job = some j ∧ b.queue = hushTx :: (resetPolls p).map pollTx) ∧
    (p.bus.job = none → b.queue = (resetPolls p).map pollTx ∧ b.job =
      some { tx := { hushTx with attempts := 1 }, timeout := p.store.settings.replyTimeout, retries := p.store.settings.retryCount }) := by
  cases job : p.bus.job with
  | some j =>
    obtain ⟨u, hushed⟩ : ∃ u, u = { p with bus := { p.bus with queue := [hushTx] } } := ⟨_, rfl⟩
    have polls := pollReferenced_busy (p := u) (j := j) (q := [hushTx]) (by rw [hushed]; exact job) (by rw [hushed]) (Nat.le_refl 1)
    have same : resetPolls u = resetPolls p := by rw [hushed]; rfl
    rw [offer_hush_busy job, ← hushed, polls, same, hushed]
    exact ⟨_, rfl, rfl, rfl, fun i held => ⟨job.trans held, rfl⟩, nofun⟩
  | none =>
    obtain ⟨j, first⟩ : ∃ j : BusJob, j =
      { tx := { hushTx with attempts := 1 }, timeout := p.store.settings.replyTimeout, retries := p.store.settings.retryCount } := ⟨_, rfl⟩
    obtain ⟨u, hushed⟩ : ∃ u, u = { p with bus := { p.bus with queue := [], job := some j } } := ⟨_, rfl⟩
    have polls := pollReferenced_busy (p := u) (j := j) (q := []) (by rw [hushed]) (by rw [hushed]) (Nat.zero_le 1)
    have same : resetPolls u = resetPolls p := by rw [hushed]; rfl
    rw [offer_hush_free loaded job, ← first, ← hushed, polls, same, hushed]
    exact ⟨_, rfl, rfl, rfl, nofun, fun _ => ⟨rfl, rfl⟩⟩

/-- The part at a reset before anything is offered: its requests answered, its slots, stacks and nodes cleared (R74, R86, R109). -/
def resetBase (tag : Byte) (p : Blocks) : Blocks :=
  resetNodes { clearStacks (freeAll (putReply (.ok tag resetKind .resetTaken) (overtake p))) with
    map := { (clearStacks p).map with waitCounter := 0 } }

/-- The part at a reset, once its bus is known. -/
theorem resetPart_shape {tag : Byte} {p : Blocks} {b : BusController} (bus : pollReferenced (hushNow (resetBase tag p)) = { resetBase tag p with bus := b }) :
    resetPart tag p = resetNotices (modTime (fun u => u.afresh p.store.settings.source)
      (resetHouse (resetLevel (clearSources { resetBase tag p with bus := b })))) := by
  rw [← bus]
  rfl

theorem nodeRecord_reset {p : Blocks} (reset : p.bus.nodes = Vector.replicate 32 NodeRecord.initial) (n : Nat) : nodeRecord p n = NodeRecord.initial := by
  unfold nodeRecord
  split
  · rfl
  · rw [reset, Vector.toList_replicate]
    by_cases low : n - 1 < 32
    · rw [List.getD_eq_getElem _ _ (by rw [List.length_replicate]; exact low), List.getElem_replicate]
    · rw [List.getD_eq_default _ _ (by rw [List.length_replicate]; exact Nat.le_of_not_lt low)]

theorem exec_reset {s : State} (tag : Byte) (loaded : s.part.store.loading = false) (room : s.part.link.replies.length < 8) :
    exec (.reset tag) s = becomes s (transmit (resetPart tag s.part)) := by
  have arrives : arriveRequest tag .reset s.part = resetPart tag s.part := by
    rw [arriveRequest, arrive_of_loaded _ room loaded, checkFrame_immediate _ _ rfl rfl, takeQueued_request _ _ rfl]
    rfl
  rw [exec_arrival rfl, happens_becomes, arrives, finish_empty (resetPart_requests tag s.part)]

/-- Settles O42. -/
theorem resetKeepsTheStore : Obligations.ResetKeepsTheStore := by
  intro s tag loaded room
  obtain ⟨b, bus, nodes, ticks, busy, free⟩ := hush_polls (p := resetBase tag s.part) loaded
  refine ⟨resetPart tag s.part, (resetPolls s.part).map pollTx, exec_reset tag loaded room, ?_⟩
  rw [resetPart_shape bus, resetNotices_eq]
  refine ⟨rfl, rfl, fun k => ?_, fun id => ?_, rfl, fun ch => ?_, rfl, rfl, rfl, busy, free, ticks, fun n => nodeRecord_reset nodes n, rfl, rfl,
    fun i low => tget_tmap _ _ i low, fun g low => tget_tmap _ _ g low, fun ch low => tget_tmap _ _ ch low, afresh_eq _ _, rfl, rfl, rfl, rfl, rfl, rfl, rfl, rfl⟩
  · by_cases low : k < 16
    · exact tget_replicate _ _ low
    · exact tget_of_le _ _ (Nat.le_of_not_lt low)
  · by_cases low : id < 64
    · exact tget_replicate _ _ low
    · exact tget_of_le _ _ (Nat.le_of_not_lt low)
  · by_cases low : ch < 128
    · exact tget_replicate _ _ low
    · exact tget_of_le _ _ (Nat.le_of_not_lt low)

end Sys2Proof.Machine

/-! The obligations about the show tick, the slots' counts and the cues that fire (R54 to R60, R147, R148). -/

namespace Sys2Proof.Machine

/-! ### SHOW_TICK (R147, R148) -/

theorem ageTimer_eq (o : Option Timer) : ageTimer o = o.map fun t => { t with fresh := false } := by
  cases o with
  | none => rfl
  | some t => rfl

theorem stepGrid_eq (o : Option PulseGrid) : stepGrid o = o.map fun g => { g with nextIndex := g.nextIndex + 1 } := by
  cases o with
  | none => rfl
  | some g => rfl

/-- A tick instant, field by field. -/
theorem tickInstant_eq (p : Blocks) : tickInstant p =
    { p with
      house := { p.house with escalation := p.house.escalation.map (fun t => { t with fresh := false }) }
      time := { p.time with
        lastTick := nextTick p
        grid := p.time.grid.map (fun g => { g with nextIndex := g.nextIndex + 1 })
        inHand := if p.store.loading = true then [.dayClock] else allTakers }
      runner := { p.runner with
        slots := tmap (fun o => o.map (fun r => { r with began := false })) p.runner.slots
        rest := tmap (fun o => o.map (fun t => { t with fresh := false })) p.runner.rest }
      trigger := { p.trigger with
        sources := tmap (fun w => { w with rearm := w.rearm.map (fun t => { t with fresh := false }) }) p.trigger.sources } } := by
  have aged : ageTimer = fun o => o.map fun t => { t with fresh := false } := funext ageTimer_eq
  unfold tickInstant takersNow
  rw [aged, funext stepGrid_eq]
  rfl

theorem takerEvents_cons (t : TickTaker) (ts : List TickTaker) (p : Blocks) : takerEvents (t :: ts) p = takerEvents ts (takerEvent p t) := rfl

theorem takerEvent_of_mem {t : TickTaker} {p : Blocks} (h : t ∈ p.time.inHand) : takerEvent p t = finish (takeTick t (putDown t p)) :=
  if_pos (List.contains_iff_mem.mpr h)

theorem takerEvent_of_notMem {t : TickTaker} {p : Blocks} (h : t ∉ p.time.inHand) : takerEvent p t = p :=
  if_neg fun held => h (List.contains_iff_mem.mp held)

theorem takerEvents_of_none {p : Blocks} (none : p.time.inHand = []) (ts : List TickTaker) : takerEvents ts p = p := by
  induction ts with
  | nil => rfl
  | cons t ts ih => rw [takerEvents_cons, takerEvent_of_notMem (by rw [none]; exact List.not_mem_nil), ih]

theorem mem_allTakers (t : TickTaker) :
    t ∈ allTakers ↔ (∃ k < 16, t = .slot k) ∨ t ∈ [TickTaker.restTimers, .rearmTimers, .polling, .escalation, .dayClock] := by
  unfold allTakers slotNumbers
  rw [List.mem_append, List.mem_map]
  refine or_congr_left ⟨fun ⟨k, low, same⟩ => ⟨k, List.mem_range.mp low, same.symm⟩, fun ⟨k, low, same⟩ => ⟨k, List.mem_range.mpr low, same.symm⟩⟩

theorem nextTick_of_unlocked {p : Blocks} (free : p.time.state ≠ .locked) : nextTick p = p.time.lastTick + 1000000000 := by
  cases state : p.time.state with
  | internal => simp only [nextTick, state]
  | syncLost => simp only [nextTick, state]
  | locked => exact absurd state free

theorem nextTick_of_locked {p : Blocks} {g : PulseGrid} (locked : p.time.state = .locked) (grid : p.time.grid = some g) :
    nextTick p = 100 * (g.goodTime : Int) +
      ((g.nextIndex : Int) * (p.store.settings.rate.getD 25 : Nat) - 100 * (g.goodNumber : Int)) * (g.interval : Int) := by
  simp only [nextTick, locked, grid, gridInstant, nominalRate]

theorem showTick_eq (o : TickOrder) (p : Blocks) : showTick o p =
    takerEvents ((o.first ++ allTakers).filter (fun t => t ∉ o.late)) (if o.instant then finish (tickInstant (takerEvents allTakers p)) else p) := by
  have kept : (fun t => !o.late.contains t) = fun t => decide (t ∉ o.late) := by
    funext t
    rw [← List.elem_eq_contains, List.elem_eq_mem, decide_not]
  rw [showTick, kept, nextInstant]

theorem exec_showTick (o : TickOrder) (s : State) : exec (.showTick o) s = becomes s (showTick o s.part) := rfl

/-- Settles O43. -/
theorem aShowTickReachesEveryTaker : Obligations.AShowTickReachesEveryTaker := by
  refine ⟨fun s first late => ⟨_, _, rfl, rfl, ?_, ?_, fun none => takerEvents_of_none none allTakers⟩,
    fun p => ⟨rfl, fun t ts => ⟨fun held => ?_, fun free => ?_⟩⟩, takerEvents_inHand, mem_allTakers,
    fun p => ⟨nextTick_of_unlocked, fun g => nextTick_of_locked⟩⟩
  · rw [exec_showTick, showTick_eq, ← tickInstant_eq, if_pos rfl]
  · rw [exec_showTick, showTick_eq, if_neg Bool.false_ne_true]
  · rw [takerEvents_cons, takerEvent_of_mem held]
    rfl
  · rw [takerEvents_cons, takerEvent_of_notMem free]

/-! ### A slot takes a tick (R49, R54, R59) -/

section
variable {p : Blocks} {k : Nat} {r : SlotRec} (h : slotOf p k = some r)
include h

theorem slotTick_of_began (began : r.began = true) (other : r.state ≠ .held) : slotTick k p = p := by
  cases state : r.state with
  | held => exact absurd state other
  | pending => simp only [slotTick, h, state]
  | suspended => simp only [slotTick, h, state]
  | running => simp only [slotTick, h, state, began, if_true]
  | priming => cases timer : r.primeTimer <;> simp only [slotTick, h, state, timer, began, if_true]

theorem slotTick_of_running (counts : r.began = false) (running : r.state = .running) :
    slotTick k p = lengthCheck k (fireDue k (setSlot k (some { r with clock := r.clock + 1 }) p)) := by
  simp only [slotTick, h, running, counts, Bool.false_eq_true, if_false, advanceSlot]

section
variable (counts : r.began = false) (priming : r.state = .priming) {t : Nat} (timer : r.primeTimer = some t)
include counts priming timer

theorem slotTick_of_priming (more : 2 ≤ t) : slotTick k p = setSlot k (some { r with primeTimer := some (t - 1) }) p := by
  simp only [slotTick, h, priming, timer, counts, Bool.false_eq_true, if_false, if_neg (Nat.not_le.mpr more)]

theorem slotTick_of_primed (last : t ≤ 1) : slotTick k p = primeExpires k p := by
  simp only [slotTick, h, priming, timer, counts, Bool.false_eq_true, if_false, if_pos last]

end

section
variable (held : r.state = .held) {d : Nat} (deadline : r.deadline = some d)
include held deadline

theorem slotTick_of_held (more : 2 ≤ d) : slotTick k p = setSlot k (some { r with deadline := some (d - 1) }) p := by
  simp only [slotTick, h, held, deadline, if_neg (Nat.not_le.mpr more)]

theorem slotTick_of_released (last : d ≤ 1) : slotTick k p = holdExpires k p := by
  simp only [slotTick, h, held, deadline, if_pos last]

end

theorem slotTick_of_idle (idle : r.state = .pending ∨ r.state = .suspended ∨ r.state = .held ∧ r.deadline = none ∨ r.state = .priming ∧ r.primeTimer = none) :
    slotTick k p = p := by
  rcases idle with pending | suspended | ⟨held, none⟩ | ⟨priming, none⟩
  · simp only [slotTick, h, pending]
  · simp only [slotTick, h, suspended]
  · simp only [slotTick, h, held, none]
  · simp only [slotTick, h, priming, none]

/-! ### A hold and a prime timer run out (R51, R59, R60, R80) -/

theorem holdExpires_of_held (held : r.state = .held) (runs : r.deadline ≠ none) : holdExpires k p = afterHold k r p := by
  rw [← releaseHold_eq h]
  simp only [holdExpires, h, held, Option.isSome_iff_ne_none.mpr runs, and_self, if_true]

theorem holdExpires_of_other (other : r.state ≠ .held ∨ r.deadline = none) : holdExpires k p = p := by
  simp only [holdExpires, h]
  exact if_neg fun ⟨held, runs⟩ => other.elim (absurd held) (Option.isSome_iff_ne_none.mp runs)

theorem primeExpires_of_other (other : r.state ≠ .priming ∨ r.primeTimer = none) : primeExpires k p = p := by
  simp only [primeExpires, h]
  exact if_neg fun ⟨priming, runs⟩ => other.elim (absurd priming) (Option.isSome_iff_ne_none.mp runs)

theorem primeExpires_of_priming {sh : ShowRecord} (priming : r.state = .priming) (runs : r.primeTimer ≠ none) (hs : showOf p r.showId = some sh) :
    primeExpires k p = afterPriming k r sh p := by
  have stopped : slotOf (setSlot k (some { r with primeTimer := none }) p) k = some { r with primeTimer := none } := slotOf_write h _
  have settles : primeExpires k p = settlePriming k (setSlot k (some { r with primeTimer := none }) p) := by
    simp only [primeExpires, h, priming, Option.isSome_iff_ne_none.mpr runs, and_self, if_true]
  rw [settles, settlePriming, slotShow_of (p := setSlot k (some { r with primeTimer := none }) p) stopped hs, afterPriming]
  dsimp only
  cases sh.primeMode with
  | strict => rfl
  | lenient =>
    dsimp only
    rw [slotReady, stopped]
    dsimp only
    cases r.group with
    | none => rfl
    | some leader => exact congrArg (considerGroup leader) (setSlot_setSlot _ _ _ _)

end

theorem holdExpires_free {p : Blocks} {k : Nat} (free : slotOf p k = none) : holdExpires k p = p := by rw [holdExpires, free]

theorem primeExpires_free {p : Blocks} {k : Nat} (free : slotOf p k = none) : primeExpires k p = p := by rw [primeExpires, free]

/-- Settles O44. -/
theorem aSlotCountsTicks : Obligations.ASlotCountsTicks := by
  have holds (s : State) (k : Nat) {q : Blocks} (h : holdExpires k s.part = q) : exec (.holdTimeout k) s = becomes s (finish q) :=
    congrArg (fun q => becomes s (finish q)) h
  have primes (s : State) (k : Nat) {q : Blocks} (h : primeExpires k s.part = q) : exec (.primeTimeout k) s = becomes s (finish q) :=
    congrArg (fun q => becomes s (finish q)) h
  refine ⟨fun p k free => ?_, fun s k free => ⟨holds s k (holdExpires_free free), primes s k (primeExpires_free free)⟩, ?_⟩
  · rw [takeTick, slotTick, free]
  · rintro s k r _ rfl h
    refine ⟨slotTick_of_began h, fun counts => ⟨slotTick_of_running h counts, fun t sh priming timer hs =>
        ⟨slotTick_of_priming h counts priming timer, fun last => ?_⟩⟩, fun d held deadline => ⟨slotTick_of_held h held deadline, fun last => ?_⟩,
      slotTick_of_idle h, fun held runs => holds s k (holdExpires_of_held h held runs), fun other => holds s k (holdExpires_of_other h other),
      fun sh priming runs hs => primes s k (primeExpires_of_priming h priming runs hs), fun other => primes s k (primeExpires_of_other h other)⟩
    · have runs : r.primeTimer ≠ none := by rw [timer]; exact Option.some_ne_none t
      exact (slotTick_of_primed h counts priming timer last).trans (primeExpires_of_priming h priming runs hs)
    · have runs : r.deadline ≠ none := by rw [deadline]; exact Option.some_ne_none d
      exact (slotTick_of_released h held deadline last).trans (holdExpires_of_held h held runs)

/-! ### The cues that fire (R56 to R58) -/

section
variable {p : Blocks} {k : Nat} {r : SlotRec} {sh : ShowRecord} (h : slotOf p k = some r) (hs : showOf p r.showId = some sh)
include h hs

theorem fireDue_of_stopped (stopped : r.state ≠ .running) : fireDue k p = p := by
  rw [fireDue_cues h hs, fireCues_still sh _ _ h stopped]

theorem fireDue_of_passed (passed : sh.cues.length ≤ r.pointer) : fireDue k p = p := by
  rw [fireDue_cues h hs, List.drop_of_length_le passed]
  rfl

variable {c : Cue} (next : sh.cues[r.pointer]? = some c)
include next

theorem fireDue_of_early (early : r.clock < c.offset) : fireDue k p = p := by
  obtain ⟨low, at_⟩ := List.getElem?_eq_some_iff.mp next
  rw [fireDue_cues h hs, ← List.cons_getElem_drop_succ (h := low), at_, fireCues, h]
  exact if_neg fun due => Nat.not_le.mpr early due.2

variable (running : r.state = .running) (due : c.offset ≤ r.clock)
include running due

theorem fireDue_of_mark {n : Nat} (mark : c.action = .mark n) :
    fireDue k p = fireDue k (putNotice (.mark k r.showId n r.pointer r.clock) (setSlot k (some { r with pointer := r.pointer + 1 }) p)) := by
  refine fireDue_step (r' := { r with pointer := r.pointer + 1 }) h hs next running due ?_ ?_ ?_ rfl rfl
  · rw [mark, fireAction, pointerTo, modSlot_some h]
  · rw [slotOf_putNotice]
    exact slotOf_write h _
  · rw [putNotice_store]
    rfl

/-- A HOLD leaves the slot HELD, and no cue after it fires. -/
theorem fireDue_of_hold {t : Nat} (hold : c.action = .hold t) :
    fireDue k p = putNotice (.showHeld k r.showId r.pointer t)
      (setSlot k (some { r with state := .held, deadline := if t = 0 then none else some (t * 100) }) p) := by
  obtain ⟨low, at_⟩ := List.getElem?_eq_some_iff.mp next
  have acts : fireAction k r.pointer sh c.action r p = putNotice (.showHeld k r.showId r.pointer t)
      (setSlot k (some { r with state := .held, deadline := if t = 0 then none else some (t * 100) }) p) := by
    rw [hold, fireAction, modSlot_some h]
    rfl
  rw [fireDue_cues h hs, ← List.cons_getElem_drop_succ (h := low), at_, fireCues, h]
  simp only [running, due, and_self, if_true, acts]
  refine fireCues_still (r := { r with state := .held, deadline := if t = 0 then none else some (t * 100) }) sh _ _ ?_ nofun
  rw [slotOf_putNotice]
  exact slotOf_write h _

end

/-- The transaction of a fired cue (R57, R88). -/
def cueTx (p : Blocks) (k : Nat) (r : SlotRec) (ch : Nat) (kind : TxKind) (e : ChannelEntry) : Transaction :=
  { node := e.node, nodeChannel := some e.nodeChannel, channel := some ch, kind := kind, cls := r.cls, origin := some k
    cueIndex := some r.pointer, owner := (entryOn p ch k).map (fun o => o.uid), toggle := none, attempts := 0 }

/-- A cue that sends moves the pointer past itself and offers its transaction (R57). -/
theorem fireAction_of_sends {p : Blocks} {k : Nat} {r : SlotRec} {sh : ShowRecord} (h : slotOf p k = some r) {a : CueAction} {i ch : Nat} {kind : TxKind}
    {e : ChannelEntry} (sends : a.sends = some (i, kind)) (listed : sh.channels[i]? = some ch) (mapped : channelEntry p ch = some e) :
    fireAction k r.pointer sh a r p = offer (cueTx p k r ch kind e) (setSlot k (some { r with pointer := r.pointer + 1 }) p) := by
  have fires : fireTx k r.pointer ch kind (pointerTo k (r.pointer + 1) p) =
      offer (cueTx p k r ch kind e) (setSlot k (some { r with pointer := r.pointer + 1 }) p) := by
    have moved : slotOf (setSlot k (some { r with pointer := r.pointer + 1 }) p) k = some { r with pointer := r.pointer + 1 } := slotOf_write h _
    have entry : channelEntry (setSlot k (some { r with pointer := r.pointer + 1 }) p) ch = some e := mapped
    rw [pointerTo, modSlot_some h, fireTx, moved]
    dsimp only
    rw [offerChannel, entry]
    rfl
  have channel : sh.channels.getD i 0 = ch := by rw [List.getD_eq_getElem?_getD, listed, Option.getD_some]
  cases a with
  | hold t => exact nomatch sends
  | mark n => exact nomatch sends
  | play j c v l =>
    obtain ⟨rfl, rfl⟩ := Prod.mk.inj (Option.some.inj sends)
    rw [← fires, ← channel]
    rfl
  | scene j n f =>
    obtain ⟨rfl, rfl⟩ := Prod.mk.inj (Option.some.inj sends)
    rw [← fires, ← channel]
    rfl
  | level j v f =>
    obtain ⟨rfl, rfl⟩ := Prod.mk.inj (Option.some.inj sends)
    rw [← fires, ← channel]
    rfl
  | pulse j d =>
    obtain ⟨rfl, rfl⟩ := Prod.mk.inj (Option.some.inj sends)
    rw [← fires, ← channel]
    rfl
  | stop j =>
    obtain ⟨rfl, rfl⟩ := Prod.mk.inj (Option.some.inj sends)
    rw [← fires, ← channel]
    rfl

theorem sends_reachesAbsent {a : CueAction} {i : Nat} {kind : TxKind} (sends : a.sends = some (i, kind)) : kind.reachesAbsent = false := by
  cases a with
  | hold t => exact nomatch sends
  | mark n => exact nomatch sends
  | play j c v l => obtain ⟨_, rfl⟩ := Prod.mk.inj (Option.some.inj sends); rfl
  | scene j n f => obtain ⟨_, rfl⟩ := Prod.mk.inj (Option.some.inj sends); rfl
  | level j v f => obtain ⟨_, rfl⟩ := Prod.mk.inj (Option.some.inj sends); rfl
  | pulse j d => obtain ⟨_, rfl⟩ := Prod.mk.inj (Option.some.inj sends); rfl
  | stop j => obtain ⟨_, rfl⟩ := Prod.mk.inj (Option.some.inj sends); rfl

section
variable {p : Blocks} {k : Nat} {r : SlotRec} {sh : ShowRecord} (h : slotOf p k = some r) (hs : showOf p r.showId = some sh)
  {c : Cue} (next : sh.cues[r.pointer]? = some c) (running : r.state = .running) (due : c.offset ≤ r.clock)
  {i ch : Nat} {kind : TxKind} {e : ChannelEntry} (sends : c.action.sends = some (i, kind)) (listed : sh.channels[i]? = some ch)
  (mapped : channelEntry p ch = some e)
include h hs next running due sends listed mapped

/-- The cues after one that sends fire on what its offer leaves. -/
theorem fireDue_of_sends : fireDue k p = fireDue k (offer (cueTx p k r ch kind e) (setSlot k (some { r with pointer := r.pointer + 1 }) p)) := by
  obtain ⟨q, offered⟩ : ∃ q, q = offer (cueTx p k r ch kind e) (setSlot k (some { r with pointer := r.pointer + 1 }) p) := ⟨_, rfl⟩
  have frame : OfferFrame (setSlot k (some { r with pointer := r.pointer + 1 }) p) q := offered ▸ offerFrame_offer _ _
  have own := frame.slots k
  rw [slotOf_write h, Option.map_some] at own
  obtain ⟨r', busy, same⟩ := Option.map_eq_some_iff.mp own
  have show_ : r'.lossless.showId = _ := congrArg SlotRec.showId same
  have pointer : r'.lossless.pointer = _ := congrArg SlotRec.pointer same
  rw [← offered]
  exact fireDue_step h hs next running due ((fireAction_of_sends h sends listed mapped).trans offered.symm) busy frame.others.store
    show_ pointer

end

/-- For an ABSENT node the cue is skipped (R91). -/
theorem offer_cueTx_absent {p : Blocks} {k : Nat} {r : SlotRec} (h : slotOf p k = some r) {a : CueAction} {i ch : Nat} {kind : TxKind} {e : ChannelEntry}
    (sends : a.sends = some (i, kind)) (absent : nodePresent p e.node = false) :
    offer (cueTx p k r ch kind e) (setSlot k (some { r with pointer := r.pointer + 1 }) p) =
      setSlot k (some { r with pointer := r.pointer + 1, skipped := moreSkipped r.skipped }) p := by
  have moved : slotOf (setSlot k (some { r with pointer := r.pointer + 1 }) p) k = some { r with pointer := r.pointer + 1 } := slotOf_write h _
  have refused : (!(cueTx p k r ch kind e).kind.reachesAbsent &&
      !nodePresent (setSlot k (some { r with pointer := r.pointer + 1 }) p) (cueTx p k r ch kind e).node) = true := by
    rw [show (cueTx p k r ch kind e).kind.reachesAbsent = false from sends_reachesAbsent sends,
      show nodePresent (setSlot k (some { r with pointer := r.pointer + 1 }) p) (cueTx p k r ch kind e).node = false from absent]
    rfl
  rw [offer, if_pos refused]
  change addSkipped k _ = _
  rw [addSkipped, modSlot_some moved, setSlot_setSlot]
  rfl

/-- Settles O45. -/
theorem dueCuesFireInOrder : Obligations.DueCuesFireInOrder := by
  refine fun p k r sh h hs => ⟨fireDue_of_stopped h hs, fireDue_of_passed h hs, fun c next => ⟨fireDue_of_early h hs next, fun running due =>
    ⟨fun n => fireDue_of_mark h hs next running due, fun t => fireDue_of_hold h hs next running due, fun i kind ch e sends listed mapped => ⟨fun _ => ?_, fun absent => ?_⟩⟩⟩⟩
  · exact fireDue_of_sends h hs next running due sends listed mapped
  · rw [fireDue_of_sends h hs next running due sends listed mapped, offer_cueTx_absent h sends absent]

end Sys2Proof.Machine

/-! The obligation about priming, GO, the length check and launch groups (R27, R49, R52, R55, R76 to R82). -/

namespace Sys2Proof.Machine

/-! ### The channels that priming prepares (R49) -/

theorem firstPlay_iff (sh : ShowRecord) (i clip : Nat) : firstPlay sh i = some clip ↔ ∃ before c after lvl loop,
    sh.cues = before ++ c :: after ∧ c.action = .play i clip lvl loop ∧ ∀ d ∈ before, ∀ n l b, d.action ≠ .play i n l b := by
  have plays (c : Cue) (n : Nat) : (match c.action with
      | .play j clip _ _ => if j = i then some clip else none
      | .scene _ _ _ => none
      | .level _ _ _ => none
      | .pulse _ _ => none
      | .stop _ => none
      | .hold _ => none
      | .mark _ => none) = some n ↔ ∃ l b, c.action = .play i n l b := by
    cases c.action with
    | play j clip lvl loop =>
      simp only [Option.ite_none_right_eq_some, Option.some.injEq, CueAction.play.injEq]
      exact ⟨fun ⟨index, same⟩ => ⟨lvl, loop, index, same, rfl, rfl⟩, fun ⟨_, _, index, same, _, _⟩ => ⟨index, same⟩⟩
    | scene _ _ _ => simp
    | level _ _ _ => simp
    | pulse _ _ => simp
    | stop _ => simp
    | hold _ => simp
    | mark _ => simp
  unfold firstPlay
  rw [List.findSome?_eq_some_iff]
  constructor
  · rintro ⟨before, c, after, cues, first, earlier⟩
    obtain ⟨lvl, loop, action⟩ := (plays c clip).mp first
    refine ⟨before, c, after, lvl, loop, cues, action, fun d member n l b play => ?_⟩
    exact nomatch (earlier d member).symm.trans ((plays d n).mpr ⟨l, b, play⟩)
  · rintro ⟨before, c, after, lvl, loop, cues, action, earlier⟩
    refine ⟨before, c, after, cues, (plays c clip).mpr ⟨lvl, loop, action⟩, fun d member => Option.eq_none_iff_forall_ne_some.mpr fun n play => ?_⟩
    obtain ⟨l, b, play⟩ := (plays d n).mp play
    exact earlier d member n l b play

theorem primes_iff (kind : ChannelKind) : kind.primes = true ↔ kind = .video ∨ kind = .audio := by cases kind <;> simp [ChannelKind.primes]

/-- What priming makes of a channel at its place in the list. -/
def primeOf (p : Blocks) (sh : ShowRecord) (c : Nat × Nat) : Option (Nat × Nat) :=
  match channelEntry p c.1 with
  | none => none
  | some e => if e.kind.primes then (firstPlay sh c.2).map (fun clip => (c.1, clip)) else none

theorem primeList_eq (p : Blocks) (sh : ShowRecord) : primeList p sh = sh.channels.zipIdx.filterMap (primeOf p sh) := rfl

theorem primeOf_iff (p : Blocks) (sh : ShowRecord) (c d : Nat × Nat) : primeOf p sh c = some d ↔
    ∃ e, channelEntry p c.1 = some e ∧ e.kind.primes = true ∧ firstPlay sh c.2 = some d.2 ∧ c.1 = d.1 := by
  unfold primeOf
  cases channelEntry p c.1 with
  | none => simp
  | some e =>
    obtain ⟨ch, clip⟩ := d
    simp [Option.map_eq_some_iff]

theorem mem_primeList (p : Blocks) (sh : ShowRecord) (ch clip : Nat) : (ch, clip) ∈ primeList p sh ↔
    ∃ i e before c after lvl loop, sh.channels[i]? = some ch ∧ channelEntry p ch = some e ∧ (e.kind = .video ∨ e.kind = .audio) ∧
      sh.cues = before ++ c :: after ∧ c.action = .play i clip lvl loop ∧ ∀ d ∈ before, ∀ n l b, d.action ≠ .play i n l b := by
  rw [primeList_eq, List.mem_filterMap]
  constructor
  · rintro ⟨⟨_, i⟩, listed, prime⟩
    obtain ⟨e, mapped, primes, first, rfl⟩ := (primeOf_iff _ _ _ _).mp prime
    obtain ⟨before, c, after, lvl, loop, cues, action, earlier⟩ := (firstPlay_iff _ _ _).mp first
    exact ⟨i, e, before, c, after, lvl, loop, List.mem_zipIdx_iff_getElem?.mp listed, mapped, (primes_iff _).mp primes, cues, action, earlier⟩
  · rintro ⟨i, e, before, c, after, lvl, loop, listed, mapped, kind, cues, action, earlier⟩
    exact ⟨(ch, i), List.mem_zipIdx_iff_getElem?.mpr listed, (primeOf_iff _ _ _ _).mpr
      ⟨e, mapped, (primes_iff _).mpr kind, (firstPlay_iff _ _ _).mpr ⟨before, c, after, lvl, loop, cues, action, earlier⟩, rfl⟩⟩

/-- Entries kept under their own names come in the order of the list. -/
theorem filterMap_fst_sublist {f : Nat × Nat → Option (Nat × Nat)} (names : ∀ c d, f c = some d → c.1 = d.1) (l : List (Nat × Nat)) :
    ((l.filterMap f).map (fun c => c.1)).Sublist (l.map (fun c => c.1)) := by
  induction l with
  | nil => exact List.Sublist.refl _
  | cons c l ih =>
    cases found : f c with
    | none =>
      rw [List.filterMap_cons_none found]
      exact ih.cons _
    | some d =>
      rw [List.filterMap_cons_some found, List.map_cons, List.map_cons, names c d found]
      exact ih.cons_cons _

theorem primeList_sublist (p : Blocks) (sh : ShowRecord) : ((primeList p sh).map (fun c => c.1)).Sublist sh.channels := by
  have kept := filterMap_fst_sublist (f := primeOf p sh) (fun c d prime => by
    obtain ⟨_, _, _, _, same⟩ := (primeOf_iff _ _ _ _).mp prime
    exact same) sh.channels.zipIdx
  rw [primeList_eq]
  rwa [show sh.channels.zipIdx.map (fun c => c.1) = sh.channels from List.zipIdx_map_fst 0 sh.channels] at kept

/-! ### Priming and the length check (R49, R55) -/

section
variable {p : Blocks} {k : Nat} {r : SlotRec} {sh : ShowRecord} (h : slotOf p k = some r) (hs : showOf p r.showId = some sh)
include h hs

theorem enterPriming_prepares (await : primeList p sh ≠ []) :
    enterPriming k p = (primeList p sh).foldl (fun b c => offerChannel c.1 (.prepare c.2) r.cls (some k) none none b)
      (setSlot k (some (r.priming ((primeList p sh).map (fun c => c.1)) sh.primeTimeout)) p) := by
  have awaits : (primeList p sh).isEmpty = false := Bool.eq_false_iff.mpr fun e => await (List.isEmpty_iff.mp e)
  unfold enterPriming
  rw [slotShow_of h hs]
  simp only [awaits, Bool.false_eq_true, if_false]
  rfl

/-- With none to wait for, a member of a group is at step 2 at once, and its group's GO is considered. -/
theorem enterPriming_joins {l : Nat} (ready : primeList p sh = []) (member : r.group = some l) :
    enterPriming k p = considerGroup l (setSlot k (some { r with state := .priming, step := 2, missing := [], primeTimer := none, began := true }) p) := by
  have primed : slotOf (setSlot k (some (r.priming [] sh.primeTimeout)) p) k = some (r.priming [] sh.primeTimeout) := slotOf_write h _
  have enters : enterPriming k p = slotReady k (setSlot k (some (r.priming [] sh.primeTimeout)) p) := by
    unfold enterPriming
    rw [slotShow_of h hs]
    dsimp only
    rw [ready]
    rfl
  rw [enters, slotReady, primed]
  simp only [SlotRec.priming, member]
  rw [setSlot_setSlot]

theorem lengthCheck_of_short (short : r.state ≠ .running ∨ r.clock < sh.length ∨ r.pointer < sh.cues.length) : lengthCheck k p = p := by
  unfold lengthCheck
  rw [slotShow_of h hs]
  refine if_neg ?_
  rintro ⟨running, long, passed⟩
  rcases short with stopped | early | left
  · exact stopped running
  · exact Nat.not_le.mpr early long
  · exact Nat.not_le.mpr left passed

section
variable (running : r.state = .running) (long : sh.length ≤ r.clock) (passed : sh.cues.length ≤ r.pointer)
include running long passed

theorem lengthCheck_of_last (last : r.repeats = some 0) : lengthCheck k p = endSlots [(k, .complete)] p := by
  simp only [lengthCheck, slotShow_of h hs, running, long, passed, and_self, if_true, last]

theorem lengthCheck_of_loop (more : r.repeats ≠ some 0) :
    lengthCheck k p = fireDue k (clearLast k (setSlot k (some { r with clock := 0, pointer := 0, repeats := r.repeats.map (fun n => n - 1) }) p)) := by
  unfold lengthCheck
  rw [slotShow_of h hs]
  dsimp only
  rw [if_pos ⟨running, long, passed⟩]
  cases left : r.repeats with
  | none =>
    have same : r.repeats.map (fun n => n - 1) = r.repeats := by rw [left]; rfl
    rw [left] at same
    dsimp only
    rw [same, ← left]
  | some n =>
    cases n with
    | zero => exact absurd left more
    | succ n => rfl

end

end

/-! ### Launch groups form (R77, R78) -/

theorem followersOf_eq (p : Blocks) (id : Nat) :
    followersOf p.store.settings id = (List.range 64).filter (fun f => (showOf p f).any (fun sf => sf.leader = some id)) := by
  unfold followersOf
  congr 1
  funext f
  unfold showOf
  cases (tget p.store.settings.shows f : Option ShowRecord) with
  | none => rfl
  | some sf => rfl

theorem afterClaim_leads {p : Blocks} {id : Nat} {origin : Origin} {k : Nat} (other : origin ≠ .alarm) (leads : followersOf p.store.settings id ≠ []) :
    afterClaim pendingScan k id origin p = formGroup pendingScan k (followersOf p.store.settings id) p := by
  unfold afterClaim
  cases followers : followersOf p.store.settings id with
  | nil => exact absurd followers leads
  | cons f fs =>
    cases origin with
    | alarm => exact absurd rfl other
    | link => rfl
    | trigger n => rfl
    | schedule n => rfl
    | leader j => rfl
    | showSet n => rfl
    | autostart => rfl

/-- The part in which a leader's followers are started (R77; log entry 19). -/
def leaderPrimes (k : Nat) (p : Blocks) : Blocks :=
  if claimStands p k then
    enterPriming k (modSlot k (fun r => { r with group := some k })
      (setGroups (p.runner.groups ++ [{ leader := k, followers := [], forming := true, leaderIn := true }]) p))
  else p

theorem leaderPrimes_of_stands {p : Blocks} {k : Nat} {r : SlotRec} (stands : claimStands p k = true) (h : slotOf p k = some r) :
    leaderPrimes k p = enterPriming k (setSlot k (some { r with group := some k }) { p with runner := { p.runner with
      groups := p.runner.groups ++ [{ leader := k, followers := [], forming := true, leaderIn := true }] } }) := by
  have h' : ∀ gs, slotOf (setGroups gs p) k = some r := fun _ => h
  rw [leaderPrimes, if_pos stands, modSlot_some (h' _)]
  rfl

theorem leaderPrimes_of_gone {p : Blocks} {k : Nat} (gone : claimStands p k = false) : leaderPrimes k p = p := if_neg (ne_true_of_eq_false gone)

theorem refuseFollower_eq (l f : Nat) (why : Reason) (step : RefusalStep) (p : Blocks) :
    refuseFollower l f why step p = putNotice (.startRefused (.leader l) (some f) why step) p := rfl

section
variable {p : Blocks} {l f : Nat} {sf : ShowRecord} (stored : showOf p f = some sf) (cls : sf.cls ≠ .override)
include stored cls

theorem startFollower_of_alarm (alarm : p.house.alarmState ≠ .normal) :
    startFollower pendingScan l p f = putNotice (.startRefused (.leader l) (some f) .alarm .check) p := by
  have check := checkStart_of_alarm (origin := .leader l) (Nat.le_of_lt_succ (showOf_lt stored)) stored (Or.inl cls) alarm nofun
  simp only [startFollower, check, refuseFollower_eq]

variable (normal : p.house.alarmState = .normal)
include normal

theorem startFollower_of_empty (empty : sf.cues = []) :
    startFollower pendingScan l p f = putNotice (.startRefused (.leader l) (some f) .emptyShow .check) p := by
  have check := checkStart_of_empty (origin := .leader l) (Nat.le_of_lt_succ (showOf_lt stored)) stored (Or.inl cls) (Or.inl normal) empty
  simp only [startFollower, check, refuseFollower_eq]

variable (cues : sf.cues ≠ [])
include cues

theorem checkStart_follower : checkStart p f (.leader l) = none :=
  checkStart_none (Nat.le_of_lt_succ (showOf_lt stored)) stored (Or.inl cls) (Or.inl normal) cues (Or.inl rfl)

theorem startFollower_of_active (active : slotHolding p f ≠ none) :
    startFollower pendingScan l p f = putNotice (.startRefused (.leader l) (some f) .already .check) p := by
  have holds : showActive p f = true := Option.isSome_iff_ne_none.mpr active
  simp only [startFollower, checkStart_follower stored cls normal cues, stored, holds, if_true, refuseFollower_eq]

variable (idle : slotHolding p f = none)
include idle

theorem startFollower_of_full (full : ∀ k < 16, slotOf p k ≠ none) :
    startFollower pendingScan l p f = putNotice (.startRefused (.leader l) (some f) .slotFull .check) p := by
  have free : showActive p f = false := by rw [showActive, idle]; rfl
  simp only [startFollower, checkStart_follower stored cls normal cues, stored, free, Bool.false_eq_true, if_false, lowestFree_none full, refuseFollower_eq]

/-- A follower's claim, on the lowest FREE slot. -/
theorem startFollower_of_free {k : Nat} (low : k < 16) (vacant : slotOf p k = none) (lowest : ∀ j < k, slotOf p j ≠ none) :
    startFollower pendingScan l p f =
      if (formingMembers p l).any (sharesChannel p sf.channels) || !claimable (setSlot k (some (takenAs f sf (.leader l))) p) k then
        putNotice (.startRefused (.leader l) (some f) .channelBusy .claim) p
      else launchFollower l k (grant pendingScan k (setSlot k (some (takenAs f sf (.leader l))) p)) := by
  have free : showActive p f = false := by rw [showActive, idle]; rfl
  simp only [startFollower, checkStart_follower stored cls normal cues, stored, free, Bool.false_eq_true, if_false, lowestFree_of low vacant lowest]
  rfl

end

theorem sharesChannel_iff (p : Blocks) (channels : List Nat) (m : Nat) : sharesChannel p channels m = true ↔
    ∃ rm shm, slotOf p m = some rm ∧ showOf p rm.showId = some shm ∧ ∃ ch ∈ channels, ch ∈ shm.channels := by
  unfold sharesChannel
  cases shows : slotShow p m with
  | none =>
    simp only [Bool.false_eq_true, false_iff]
    rintro ⟨rm, shm, busy, stored, _⟩
    rw [slotShow_of busy stored] at shows
    exact nomatch shows
  | some x =>
    obtain ⟨rm, shm⟩ := x
    obtain ⟨busy, stored⟩ := slotShow_some shows
    simp only [List.any_eq_true, List.contains_iff_mem]
    refine ⟨fun ⟨ch, own, other⟩ => ⟨rm, shm, busy, stored, ch, other, own⟩, fun ⟨rm', shm', busy', stored', ch, other, own⟩ => ?_⟩
    cases busy.symm.trans busy'
    cases stored.symm.trans stored'
    exact ⟨ch, own, other⟩

/-- What keeps a follower off: a channel of a member of its group, or an owner of an equal or higher class (R78). -/
theorem followerClash_iff {p : Blocks} {l f k : Nat} {sf : ShowRecord} (stored : showOf p f = some sf) (low : k < 16) :
    ((formingMembers p l).any (sharesChannel p sf.channels) || !claimable (setSlot k (some (takenAs f sf (.leader l))) p) k) = true ↔
      (∃ m ∈ formingMembers p l, ∃ rm shm, slotOf p m = some rm ∧ showOf p rm.showId = some shm ∧ ∃ ch ∈ sf.channels, ch ∈ shm.channels) ∨
        ∃ ch ∈ sf.channels, ∃ e, topEntry p ch = some e ∧ sf.cls.rank ≤ e.cls.rank := by
  have claims := claimable_iff (p := setSlot k (some (takenAs f sf (.leader l))) p) (slotOf_setSlot_self k _ p low) stored
  rw [Bool.or_eq_true, List.any_eq_true, Bool.not_eq_true', ← Bool.not_eq_true, claims]
  refine or_congr (exists_congr fun m => and_congr_right fun _ => sharesChannel_iff p sf.channels m) ?_
  push Not
  rfl

theorem launchFollower_of_gone {q : Blocks} {k : Nat} (l : Nat) (gone : claimStands q k = false) : launchFollower l k q = q :=
  if_neg (ne_true_of_eq_false gone)

theorem launchFollower_of_alone {q : Blocks} {l k : Nat} (stands : claimStands q k = true)
    (none : q.runner.groups.find? (fun g => decide (g.leader = l) && g.forming) = none) : launchFollower l k q = enterPriming k q := by
  have members : formingMembers q l = [] := by rw [formingMembers, none]
  rw [launchFollower, if_pos stands, joinGroup, members]
  rfl

theorem launchFollower_of_group {q : Blocks} {l k : Nat} {g : LaunchGroup} {r : SlotRec} (stands : claimStands q k = true)
    (some_ : q.runner.groups.find? (fun g => decide (g.leader = l) && g.forming) = some g) (leaderIn : g.leaderIn = true) (h : slotOf q k = some r) :
    launchFollower l k q = enterPriming k (setSlot k (some { r with group := some l }) { q with runner := { q.runner with
      groups := q.runner.groups.map (fun g => if g.leader = l ∧ g.forming = true then { g with followers := g.followers ++ [k] } else g) } }) := by
  have members : formingMembers q l = g.leader :: g.followers := by rw [formingMembers, some_]; simp only [LaunchGroup.members, leaderIn, if_true]; rfl
  have h' : ∀ gs, slotOf (setGroups gs q) k = some r := fun _ => h
  rw [launchFollower, if_pos stands, joinGroup, members]
  simp only [List.isEmpty_cons, Bool.false_eq_true, if_false]
  rw [modSlot_some (h' _)]
  rfl

/-! ### Launch groups go and dissolve (R81, R82) -/

theorem considerGroup_of_none {p : Blocks} {l : Nat} (none : p.runner.groups.find? (fun g => decide (g.leader = l)) = none) : considerGroup l p = p := by
  rw [considerGroup, none]

theorem considerGroup_of_some {p : Blocks} {g : LaunchGroup} (found : p.runner.groups.find? (fun h => decide (h.leader = g.leader)) = some g) :
    considerGroup g.leader p = if g.dissolves then dissolveGroup g p else if g.goes p then goGroup g p else p := by
  rw [considerGroup, found]

theorem dissolves_iff (g : LaunchGroup) : g.dissolves = true ↔ g.leaderIn = false ∨ g.forming = false ∧ g.followers = [] := by
  simp only [LaunchGroup.dissolves, Bool.or_eq_true, Bool.and_eq_true, Bool.not_eq_true', List.isEmpty_iff]

theorem goes_iff (g : LaunchGroup) (p : Blocks) : g.goes p = true ↔ g.forming = false ∧ ∀ m ∈ g.members, atStep2 p m = true := by
  simp only [LaunchGroup.goes, Bool.and_eq_true, Bool.not_eq_true', List.all_eq_true]

/-- The members of a group that take their GO where they are at step 2. -/
def goReady (ms : List Nat) (p : Blocks) : Blocks := ms.foldl (fun q m => if atStep2 q m = true then goSlot m q else q) p

theorem goGroup_eq (g : LaunchGroup) (p : Blocks) : goGroup g p = goReady g.members (deleteGroup g p) := rfl

theorem dissolveGroup_eq (g : LaunchGroup) (p : Blocks) :
    dissolveGroup g p = goReady (g.members.filter (fun m => m ∉ p.runner.foresight.ahead)) (deleteGroup g p) := by
  have spared : (fun k => !p.runner.foresight.ahead.contains k) = fun m => decide (m ∉ p.runner.foresight.ahead) := by
    funext m
    rw [← List.elem_eq_contains, List.elem_eq_mem, decide_not]
  rw [dissolveGroup, spared]
  rfl

theorem ahead_eq (f : Foresight) : f.ahead = match f with
    | .known ks => ks
    | .idle => []
    | .recording _ => [] := by
  cases f <;> rfl

/-- A group's settlement after a removal, and when it is considered, by whether it dissolves or goes. -/
theorem settleGroup_of_either {p : Blocks} {g : LaunchGroup} (either : g.dissolves = true ∨ g.goes p = true) : settleGroup g p = dissolveGroup g p :=
  if_pos (Bool.or_eq_true_iff.mpr either)

theorem settleGroup_of_neither {p : Blocks} {g : LaunchGroup} (breaks : ¬ g.dissolves = true) (goes : ¬ g.goes p = true) : settleGroup g p = p :=
  if_neg fun either => (Bool.or_eq_true_iff.mp either).elim breaks goes

/-- Settles O46. -/
theorem primingGoAndLength : Obligations.PrimingGoAndLength := by
  refine ⟨mem_primeList, primeList_sublist, fun p k ch => ownersOf_clearLast k p ch,
    fun p k r sh h hs => ⟨⟨_, rfl, enterPriming_prepares h hs, fun ready alone => by
      rw [ready]
      exact enterPriming_goes h hs ready alone, fun l => enterPriming_joins h hs⟩, goSlot_eq h,
      lengthCheck_of_short h hs, fun running long passed => ⟨lengthCheck_of_last h hs running long passed, lengthCheck_of_loop h hs running long passed⟩⟩,
    atStep2_iff, ?_, ?_, fun p l => considerGroup_of_none, ?_, fun p => rfl, fun p k r => leaveGroup_some, ?_, fun f p => rfl⟩
  · intro p q k id origin fs followers leads other stands gone
    have primes : leaderPrimes k p = q := by
      cases claim : claimStands p k with
      | false => rw [leaderPrimes_of_gone claim, gone claim]
      | true =>
        obtain ⟨r, h, _⟩ := (claimStands_iff p k).mp claim
        rw [leaderPrimes_of_stands claim h, stands r claim h]
    rw [← followersOf_eq] at followers
    refine ⟨_, rfl, ?_⟩
    rw [afterClaim_leads other (followers ▸ leads), ← primes, followers]
    rfl
  · intro p l f sf stored cls
    refine ⟨startFollower_of_alarm stored cls, fun normal => startFollower_of_empty stored cls normal, fun normal cues =>
      ⟨startFollower_of_active stored cls normal cues, startFollower_of_full stored cls normal cues, ?_⟩⟩
    rintro k _ members clash _ idle low none lowest rfl listed clashes rfl
    have starts := startFollower_of_free (l := l) stored cls normal cues idle low none lowest
    have same : members = formingMembers p l := listed
    rw [same, ← followerClash_iff stored low] at clashes
    refine ⟨fun busy => ?_, fun clear gone => ?_, fun clear claim => ⟨fun alone => ?_, fun g r found leaderIn h => ?_⟩⟩
    · rw [starts, if_pos (clashes.mp busy)]
    · rw [starts, if_neg (fun c => clear (clashes.mpr c)), launchFollower_of_gone l gone]
    · rw [starts, if_neg (fun c => clear (clashes.mpr c)), launchFollower_of_alone claim alone]
    · rw [starts, if_neg (fun c => clear (clashes.mpr c)), launchFollower_of_group claim found leaderIn h]
  · rintro p _ g members ahead breaks goes listed known rfl dissolves runs
    have same : members = g.members := listed
    have endings : ahead = p.runner.foresight.ahead := known.trans (ahead_eq _).symm
    subst same endings
    rw [← dissolves_iff] at dissolves
    rw [← goes_iff] at runs
    refine ⟨fun either => ?_, fun whole waits => ?_, fun found => ⟨fun breaks => ?_, fun whole go => ?_, fun whole waits => ?_⟩⟩
    · rw [settleGroup_of_either (either.imp dissolves.mp runs.mp), dissolveGroup_eq]
      rfl
    · exact settleGroup_of_neither (fun b => whole (dissolves.mpr b)) (fun g => waits (runs.mpr g))
    · rw [considerGroup_of_some found, if_pos (dissolves.mp breaks), dissolveGroup_eq]
      rfl
    · rw [considerGroup_of_some found, if_neg (fun b => whole (dissolves.mpr b)), if_pos (runs.mp go), goGroup_eq]
      rfl
    · rw [considerGroup_of_some found, if_neg (fun b => whole (dissolves.mpr b)), if_neg (fun g => waits (runs.mpr g))]
  · intro act p q ks
    refine ⟨fun recorded => ?_, fun same => ?_⟩
    · rw [endingsOf, recorded]
      rfl
    · rw [same]
      rfl

end Sys2Proof.Machine

/-! The obligation about the other takers of a tick: the rest and rearm timers, the polling rounds and the escalation timer (R69, R103, R118, R167). -/

namespace Sys2Proof.Machine

/-! ### Polling rounds (R103) -/

/-- A node that a polling round polls, where the queue has room. -/
def pollDue (p : Blocks) (n : Nat) : Bool := !nodePresent p n && nodeReferenced p.store.settings n && !pollOutstanding p n

theorem pollNodes_due {p : Blocks} {n : Nat} {ns : List Nat} (due : pollDue p n = true) (room : p.bus.queue.length < 64) :
    pollNodes (n :: ns) p = pollNodes ns (offer (pollTx n) p) := by
  rw [pollNodes]
  exact (if_pos due).trans (if_pos room)

theorem pollNodes_full {p : Blocks} {n : Nat} {ns : List Nat} (due : pollDue p n = true) (full : 64 ≤ p.bus.queue.length) : pollNodes (n :: ns) p = p := by
  rw [pollNodes]
  exact (if_pos due).trans (if_neg (Nat.not_lt.mpr full))

theorem pollNodes_not {p : Blocks} {n : Nat} {ns : List Nat} (not : pollDue p n = false) : pollNodes (n :: ns) p = pollNodes ns p := by
  rw [pollNodes]
  exact if_neg (ne_true_of_eq_false not)

/-- The POLLs that a round makes of a list of nodes. -/
def duePolls (p : Blocks) (ns : List Nat) : List Transaction := (ns.filter (pollDue p)).map pollTx

theorem pollOutstanding_queued {p : Blocks} {n m : Nat} (other : m ≠ n) :
    pollOutstanding { p with bus := { p.bus with queue := p.bus.queue ++ [pollTx n] } } m = pollOutstanding p m := by
  unfold pollOutstanding anyOutstanding
  have differs : (decide ((pollTx n).kind = .poll) && decide ((pollTx n).node = m)) = false := by
    rw [decide_eq_false (fun same : (pollTx n).node = m => other same.symm), Bool.and_false]
  simp only [List.any_append, List.any_cons, List.any_nil, differs, Bool.or_false]

/-- On a busy bus the POLLs of a round join the queue as far as it has room. -/
theorem pollNodes_busy {p : Blocks} {j : BusJob} (ns : List Nat) (once : ns.Nodup) (busy : p.bus.job = some j) :
    pollNodes ns p = { p with bus := { p.bus with queue := p.bus.queue ++ (duePolls p ns).take (64 - p.bus.queue.length) } } := by
  induction ns generalizing p with
  | nil =>
    rw [pollNodes, duePolls, List.filter_nil, List.map_nil, List.take_nil, List.append_nil]
  | cons n ns ih =>
    rw [List.nodup_cons] at once
    unfold duePolls
    cases due : pollDue p n with
    | false => rw [pollNodes_not due, ih once.2 busy, List.filter_cons_of_neg (ne_true_of_eq_false due)]; rfl
    | true =>
      rw [List.filter_cons_of_pos due, List.map_cons]
      by_cases room : p.bus.queue.length < 64
      · have joined : offer (pollTx n) p = { p with bus := { p.bus with queue := p.bus.queue ++ [pollTx n] } } :=
          offers_queue (ns := [n]) busy rfl (Nat.succ_le_of_lt room)
        have later : ns.filter (pollDue { p with bus := { p.bus with queue := p.bus.queue ++ [pollTx n] } }) = ns.filter (pollDue p) :=
          List.filter_congr fun m member => by
            unfold pollDue
            rw [pollOutstanding_queued fun same : m = n => once.1 (same ▸ member)]
            rfl
        rw [pollNodes_due due room, joined, ih (p := { p with bus := { p.bus with queue := p.bus.queue ++ [pollTx n] } }) once.2 busy, duePolls, later]
        have left : 64 - p.bus.queue.length = 64 - (p.bus.queue.length + 1) + 1 := by omega
        rw [left, List.take_succ_cons]
        simp only [List.length_append, List.length_singleton, List.append_assoc, List.singleton_append]
      · rw [pollNodes_full due (Nat.le_of_not_lt room), Nat.sub_eq_zero_of_le (Nat.le_of_not_lt room), List.take_zero, List.append_nil]

/-- On a free bus with nothing queued, the first POLL of a round goes straight to the bus (log entry 8). -/
theorem pollNodes_free {p : Blocks} (ns : List Nat) (once : ns.Nodup) (few : ns.length ≤ 64) (loaded : p.store.loading = false) (free : p.bus.job = none)
    (empty : p.bus.queue = []) : (duePolls p ns = [] → pollNodes ns p = p) ∧
      ∀ t ts, duePolls p ns = t :: ts → pollNodes ns p = { p with bus := { p.bus with
        queue := ts
        job := some { tx := { t with toggle := some (nodeRecord p t.node).toggle, attempts := 1 }, timeout := p.store.settings.replyTimeout,
                      retries := p.store.settings.retryCount } } } := by
  induction ns with
  | nil => exact ⟨fun _ => rfl, nofun⟩
  | cons n ns ih =>
    rw [List.nodup_cons] at once
    rw [List.length_cons] at few
    cases due : pollDue p n with
    | false =>
      have same : duePolls p (n :: ns) = duePolls p ns := by rw [duePolls, List.filter_cons_of_neg (ne_true_of_eq_false due)]; rfl
      rw [pollNodes_not due, same]
      exact ih once.2 (by omega)
    | true =>
      have first : duePolls p (n :: ns) = pollTx n :: duePolls p ns := by rw [duePolls, List.filter_cons_of_pos due]; rfl
      refine ⟨fun none => (nomatch first.symm.trans none), fun t ts polls => ?_⟩
      obtain ⟨rfl, rfl⟩ := List.cons.inj (first.symm.trans polls)
      obtain ⟨j, sends⟩ : ∃ j : BusJob, j = { tx := { pollTx n with toggle := some (nodeRecord p n).toggle, attempts := 1 },
                                              timeout := p.store.settings.replyTimeout, retries := p.store.settings.retryCount } := ⟨_, rfl⟩
      obtain ⟨q, taken⟩ : ∃ q, q = { p with bus := { p.bus with queue := [], job := some j } } := ⟨_, rfl⟩
      have goes : offer (pollTx n) p = q := by
        rw [taken, sends]
        exact offers_free (ns := []) loaded free empty (Nat.zero_le 64)
      have later : ns.filter (pollDue q) = ns.filter (pollDue p) := List.filter_congr fun m member => by
        have other : (pollTx n).node ≠ m := fun same : n = m => once.1 (same ▸ member)
        have clear : pollOutstanding q m = pollOutstanding p m := by
          rw [taken, sends]
          simp only [pollOutstanding, anyOutstanding, free, empty, List.any_nil, Bool.false_or]
          exact (congrArg _ (decide_eq_false other)).trans (Bool.and_false _)
        rw [pollDue, pollDue, clear, taken]
        rfl
      have room : (duePolls p ns).length ≤ 64 := by
        have := List.length_filter_le (pollDue p) ns
        rw [duePolls, List.length_map]
        omega
      have polled : duePolls q ns = duePolls p ns := by rw [duePolls, later]; rfl
      have queue : q.bus.queue = [] := by rw [taken]
      rw [pollNodes_due due (by rw [empty]; exact Nat.zero_lt_succ 63), goes, pollNodes_busy ns once.2 (j := j) (by rw [taken]), polled, queue,
        List.nil_append, List.length_nil, Nat.sub_zero, List.take_of_length_le room, taken, sends]
      rfl

theorem nodeNumbers_nodup : nodeNumbers.Nodup := List.nodup_range.map fun _ _ => Nat.succ.inj

theorem nodeNumbers_length : nodeNumbers.length = 32 := by rw [nodeNumbers, List.length_map, List.length_range]

/-- With no POLL on the bus or in the queue, a round polls each ABSENT referenced node. -/
theorem duePolls_idle {p : Blocks} (free : p.bus.job = none) (empty : p.bus.queue = []) : duePolls p nodeNumbers =
    ((List.range 33).filter (fun n => 1 ≤ n ∧ nodePresent p n = false ∧ nodeReferenced p.store.settings n = true)).map pollTx := by
  rw [duePolls, nodeNumbers_filter]
  congr 2
  funext n
  have clear : pollOutstanding p n = false := by rw [pollOutstanding, anyOutstanding, empty, free]; rfl
  simp only [pollDue, clear, Bool.not_false, Bool.and_true, Bool.decide_and, Bool.decide_eq_true, Bool.decide_eq_false]

theorem duePolls_eq (p : Blocks) : duePolls p nodeNumbers = ((List.range 33).filter (fun n => 1 ≤ n ∧ nodePresent p n = false ∧
    nodeReferenced p.store.settings n = true ∧ pollOutstanding p n = false)).map pollTx := by
  rw [duePolls, nodeNumbers_filter]
  congr 2
  funext n
  simp only [pollDue, Bool.decide_and, Bool.decide_eq_true, Bool.decide_eq_false, Bool.and_assoc]

/-! ### The rest, rearm and escalation timers (R69, R118, R167) -/

theorem tickTimer_none : tickTimer none = none := rfl

theorem tickTimer_some (t : Timer) : tickTimer (some t) = if t.fresh then some t else if t.ticks ≤ 1 then none else some { t with ticks := t.ticks - 1 } := rfl

section
variable {p : Blocks}

theorem escalationTick_idle (idle : p.house.escalation = none) : escalationTick p = p := by rw [escalationTick, idle]

variable {t : Timer} (runs : p.house.escalation = some t)
include runs

theorem escalationTick_fresh (fresh : t.fresh = true) : escalationTick p = p := by
  simp only [escalationTick, runs, fresh, if_true]

theorem escalationTick_counts (old : t.fresh = false) (more : 2 ≤ t.ticks) :
    escalationTick p = { p with house := { p.house with escalation := some { t with ticks := t.ticks - 1 } } } := by
  simp only [escalationTick, runs, old, Bool.false_eq_true, if_false, if_neg (Nat.not_le.mpr more)]
  rfl

theorem escalationTick_ends (old : t.fresh = false) (last : t.ticks ≤ 1) :
    escalationTick p = putNotice (.alarm .escalated) { p with house := { p.house with escalation := none, alert := true } } := by
  simp only [escalationTick, runs, old, Bool.false_eq_true, if_false, if_pos last]
  rfl

end

theorem escalationExpires_running {p : Blocks} (runs : p.house.escalation ≠ none) :
    escalationExpires p = putNotice (.alarm .escalated) { p with house := { p.house with escalation := none, alert := true } } := by
  obtain ⟨t, runs⟩ := Option.ne_none_iff_exists'.mp runs
  simp only [escalationExpires, runs]
  rfl

/-- Settles O47. -/
theorem timersAndPollingCountTicks : Obligations.TimersAndPollingCountTicks := by
  refine ⟨fun p => ⟨_, rfl, fun id low => ⟨fun idle => ?_, fun t runs => ?_⟩⟩, fun p => ⟨_, rfl, fun i low => ⟨fun idle => ?_, fun t runs => ?_⟩⟩,
    fun p => ⟨fun counts => if_pos counts, fun full => if_neg (Nat.not_lt.mpr full), escalationTick_idle, fun t => escalationTick_fresh,
      fun t => escalationTick_counts, fun t => escalationTick_ends, ?_, ?_⟩,
    fun s n => ⟨rfl, rfl, fun idle => ?_, fun runs => ?_, fun loading => ?_, fun loaded => ?_⟩⟩
  · rw [tget_tmap _ _ id low, idle, tickTimer_none]
  · rw [tget_tmap _ _ id low, runs, tickTimer_some]
  · rw [tget_tmap _ _ i low, idle, tickTimer_none, ← idle]
  · rw [tget_tmap _ _ i low, runs, tickTimer_some]
  · rintro polls free loaded empty rfl
    rw [← duePolls_idle free empty]
    exact pollNodes_free nodeNumbers nodeNumbers_nodup (by rw [nodeNumbers_length]; omega) loaded free empty
  · rintro j polls busy _ rfl
    rw [← duePolls_eq]
    exact pollNodes_busy nodeNumbers nodeNumbers_nodup busy
  · exact congrArg (fun q => becomes s (finish q)) (by rw [escalationExpires, idle] : escalationExpires s.part = s.part)
  · exact congrArg (fun q => becomes s (finish q)) (escalationExpires_running runs)
  · exact congrArg (fun q => becomes s (finish q)) (if_pos loading : pollNow s.part = s.part)
  · exact congrArg (fun q => becomes s (finish q)) (if_neg (ne_true_of_eq_false loaded) : pollNow s.part = _)

end Sys2Proof.Machine

/-! The obligations about trigger lines and what a trigger source does with an event (R111 to R114, R117 to R121, R163). -/

namespace Sys2Proof.Machine

/-! ### What a route's action does (R120, R121) -/

section
variable {p : Blocks} {i : Nat} {rt : RouteSettings}

theorem routeAction_note (note : rt.action = .note) : routeAction i rt p = putNotice (.trigger i (tget p.trigger.sources i).direction .note none) p := by
  simp only [routeAction, note]

variable {id : Nat} (target : rt.target = some id)
include target

theorem routeAction_start {again : Bool} (starts : rt.action = .start ∧ again = false ∨ rt.action = .startRestart ∧ again = true) :
    routeAction i rt p = (startReported rt.report again (.trigger i) id p).2 := by
  rcases starts with ⟨start, rfl⟩ | ⟨restart, rfl⟩
  · simp only [routeAction, start, target]
  · simp only [routeAction, restart, target]

theorem routeAction_startSet (starts : rt.action = .startSet) : routeAction i rt p = startSetBy rt.report id p := by
  simp only [routeAction, starts, target]

/-- A STOP or a RELEASE of a show that is not defined. -/
theorem routeAction_noShow (acts : rt.action = .stop ∨ rt.action = .release) (absent : showOf p id = none) :
    routeAction i rt p = afterRefusal rt (.startRefused (.trigger i) (some id) .noShow .check) p := by
  rcases acts with stop | release
  · simp only [routeAction, stop, target, absent, Option.isNone_none, if_true, refuseRoute, afterRefusal]
  · simp only [routeAction, release, target, absent, Option.isNone_none, if_true, refuseRoute, afterRefusal]

theorem routeAction_stop (stop : rt.action = .stop) (stored : showOf p id ≠ none) : routeAction i rt p = stopHolding id p := by
  simp only [routeAction, stop, target, Option.isNone_iff_eq_none, if_neg stored]

theorem routeAction_notHeld (release : rt.action = .release) (stored : showOf p id ≠ none) (notHeld : heldSlot p id = none) :
    routeAction i rt p = afterRefusal rt (.startRefused (.trigger i) (some id) .notHeld .check) p := by
  simp only [routeAction, release, target, Option.isNone_iff_eq_none, if_neg stored, notHeld, refuseRoute, afterRefusal]

theorem routeAction_held {k : Nat} (release : rt.action = .release) (stored : showOf p id ≠ none) (held : heldSlot p id = some k) :
    routeAction i rt p = releaseHold k p := by
  simp only [routeAction, release, target, Option.isNone_iff_eq_none, if_neg stored, held]

end

/-! ### An event at a source (R117, R163) -/

section
variable {p : Blocks} {i : Nat} {dir : Option Direction}

theorem sourceEvent_ignored (ignored : p.house.alarmState ≠ .normal ∨ (tget p.trigger.sources i).rearm ≠ none) : sourceEvent i dir p = p := by
  unfold sourceEvent
  rcases ignored with alarm | rearming
  · exact if_pos ((underAlarm_iff p).mpr alarm)
  · rw [if_pos (Option.isSome_iff_ne_none.mpr rearming), ite_self]

/-- An event that is not ignored makes its source pending; the rest goes by the route and the wake line. -/
theorem sourceEvent_pending (normal : p.house.alarmState = .normal) (idle : (tget p.trigger.sources i).rearm = none) :
    sourceEvent i dir p =
      if (tget p.store.settings.routes i).enabled ∧ p.house.mode = .opened then takeSource i (withSource i { pending := true, rearm := none, direction := dir } p)
      else if handsWake p i then lineWake i (withSource i { pending := true, rearm := none, direction := dir } p)
      else withSource i { pending := true, rearm := none, direction := dir } p := by
  have record : modSource i (fun w => { w with pending := true, direction := dir }) p = withSource i { pending := true, rearm := none, direction := dir } p := by
    rw [← idle]
    rfl
  rw [← record, sourceEvent, if_neg (ne_true_of_eq_false (underAlarm_of_normal normal)), idle]
  rfl

theorem handsWake_iff : handsWake p i = true ↔ i < 32 ∧ (tget p.store.settings.lines i).wake = true ∧ p.house.mode = .closed := by
  simp only [handsWake, Bool.and_eq_true, decide_eq_true_eq, and_assoc]

end

/-- Settles O49. -/
theorem aSourceTakesItsEvent : Obligations.ASourceTakesItsEvent := by
  refine ⟨fun p p1 i dir written => ⟨sourceEvent_ignored, fun normal idle => ?_⟩, fun p i rt => ⟨routeAction_note, ?starts, ?sets, ?stops, ?releases⟩⟩
  · subst written
    refine ⟨fun enabled opened => ?_, fun line wake closed wakes => ?_, fun stays sleeps => ?_⟩
    · rw [sourceEvent_pending normal idle, if_pos ⟨enabled, opened⟩, takeSource_eq]
    · have shut : ¬ ((tget p.store.settings.routes i).enabled = true ∧ p.house.mode = .opened) := by simp [closed]
      rw [sourceEvent_pending normal idle, if_neg shut, if_pos (handsWake_iff.mpr ⟨line, wake, closed⟩), lineWake]
      exact (if_pos wakes).trans (opening_eq _ _)
    · have shut : ¬ ((tget p.store.settings.routes i).enabled = true ∧ p.house.mode = .opened) := by
        rintro ⟨enabled, opened⟩
        simp [enabled, opened] at stays
      rw [sourceEvent_pending normal idle, if_neg shut]
      by_cases hands : handsWake p i = true
      · obtain ⟨line, wake, closed⟩ := handsWake_iff.mp hands
        have asleep : p.house.wake.trigger = false := by simpa [Nat.not_le.mpr line, wake, closed] using sleeps
        rw [if_pos hands, lineWake]
        exact if_neg (ne_true_of_eq_false asleep)
      · rw [if_neg hands]
  case starts =>
    refine fun id again target starts => ⟨fun k o q out => ?_, fun why step q out => ?_⟩
    · rw [routeAction_start target starts, startReported_of_accepted out]
    · rw [routeAction_start target starts, startReported_of_refused out, afterRefusal]
  case sets =>
    refine fun n target starts => ⟨fun absent => ?_, fun st defined => ?_⟩
    · rw [routeAction_startSet target starts, startSetBy_of_undefined absent]
    · rw [routeAction_startSet target starts, startSetBy_of_defined defined]
  case stops =>
    refine fun id target stop => ⟨routeAction_noShow target (.inl stop), fun stored none => ?_, fun k stored holds => ?_⟩
    · rw [routeAction_stop target stop stored, stopHolding_of_none none]
    · rw [routeAction_stop target stop stored, stopHolding_of_some holds]
  case releases =>
    refine fun id target release => ⟨routeAction_noShow target (.inr release), fun stored notHeld => ?_, fun k r stored holds busy held => ?_⟩
    · exact routeAction_notHeld target release stored (heldSlot_none notHeld)
    · rw [routeAction_held target release stored (heldSlot_of_held holds busy held), releaseHold_eq busy]

/-! ### Samples and repeats of a trigger line (R111 to R114) -/

section
variable {p : Blocks} {l : Nat} {w : LineWork}

theorem line_of_enabled (enabled : (tget p.store.settings.lines l).enabled = true) : l < 32 := by
  by_contra beyond
  rw [tget_of_le _ l (Nat.le_of_not_lt beyond)] at enabled
  exact Bool.noConfusion enabled

theorem line_withLine (line : l < 32) : tget (withLine l w p).trigger.lines l = w := tget_tset_self _ l w line

theorem modLine_withLine (line : l < 32) (f : LineWork → LineWork) : modLine l f (withLine l w p) = withLine l (f w) p := by
  unfold modLine
  rw [line_withLine line]
  simp only [withLine, tset_tset]

/-- A repeat of a line, from a working record just written. -/
theorem repeatNow_withLine (line : l < 32) : repeatNow l (withLine l w p) =
    sourceEvent l (some .press) (afterReport (tget p.store.settings.lines l) (.trigger l (some .press) .repeated (some true))
      (withLine l { w with countdown := some ((tget p.store.settings.lines l).repeatInterval / 5) } p)) := by
  unfold repeatNow
  simp only [modLine_withLine line]
  rfl

theorem countRepeat_idle (line : l < 32) (idle : w.countdown = none) : countRepeat l (withLine l w p) = withLine l w p := by
  rw [countRepeat, line_withLine line, idle]

theorem countRepeat_runs {c : Nat} (line : l < 32) (counts : w.countdown = some c) (runs : 2 ≤ c) :
    countRepeat l (withLine l w p) = withLine l { w with countdown := some (c - 1) } p := by
  rw [countRepeat, line_withLine line, counts]
  exact (if_neg (Nat.not_le.mpr runs)).trans (modLine_withLine line _)

theorem countRepeat_due {c : Nat} (line : l < 32) (counts : w.countdown = some c) (due : c ≤ 1) :
    countRepeat l (withLine l w p) = repeatNow l (withLine l w p) := by
  rw [countRepeat, line_withLine line, counts]
  exact if_pos due

end

theorem takes_eq (e : Edge) (dir : Direction) : e.takes dir = decide (e = .both ∨ e = .rising ∧ dir = .press ∨ e = .falling ∧ dir = .release) := by
  cases e <;> cases dir <;> rfl

section
variable {p : Blocks} {l : Nat} {high : Bool}

theorem line_off (off : p.store.loading = true ∨ (tget p.store.settings.lines l).enabled = false) :
    (p.store.loading || !(tget p.store.settings.lines l).enabled) = true := by
  simpa using off

theorem line_on (loaded : p.store.loading = false) (enabled : (tget p.store.settings.lines l).enabled = true) :
    (p.store.loading || !(tget p.store.settings.lines l).enabled) = false := by
  simp [loaded, enabled]

theorem lineSample_off (off : p.store.loading = true ∨ (tget p.store.settings.lines l).enabled = false) : lineSample l high p = p := if_pos (line_off off)

theorem repeatEvent_off (off : p.store.loading = true ∨ (tget p.store.settings.lines l).enabled = false) : repeatEvent l p = p := if_pos (line_off off)

variable (loaded : p.store.loading = false) (enabled : (tget p.store.settings.lines l).enabled = true)
include loaded enabled

theorem lineSample_first (first : (tget p.trigger.lines l).qualified = none) : lineSample l high p =
    withLine l { tget p.trigger.lines l with qualified := some (rawLevel (tget p.store.settings.lines l) high), stable := 0 } p := by
  unfold lineSample
  rw [if_neg (ne_true_of_eq_false (line_on loaded enabled)), first]
  rfl

/-- A sample that qualifies no change: the stable count after it, and the repeat counted down. -/
theorem lineSample_stays {q : LineState} {n : Nat} (before : (tget p.trigger.lines l).qualified = some q)
    (stays : q = rawLevel (tget p.store.settings.lines l) high ∧ n = 0 ∨
      q ≠ rawLevel (tget p.store.settings.lines l) high ∧ n = (tget p.trigger.lines l).stable + 1 ∧ n < (tget p.store.settings.lines l).stableCount) :
    lineSample l high p = countRepeat l (withLine l { tget p.trigger.lines l with stable := n } p) := by
  unfold lineSample
  rw [if_neg (ne_true_of_eq_false (line_on loaded enabled)), before]
  rcases stays with ⟨same, rfl⟩ | ⟨differs, rfl, short⟩
  · exact if_pos same
  · exact (if_neg differs).trans (if_pos short)

theorem lineSample_change {q : LineState} (before : (tget p.trigger.lines l).qualified = some q)
    (differs : q ≠ rawLevel (tget p.store.settings.lines l) high) (stable : (tget p.store.settings.lines l).stableCount ≤ (tget p.trigger.lines l).stable + 1) :
    lineSample l high p = lineChange l (rawLevel (tget p.store.settings.lines l) high) p := by
  unfold lineSample
  rw [if_neg (ne_true_of_eq_false (line_on loaded enabled)), before]
  exact (if_neg differs).trans (if_neg (Nat.not_lt.mpr stable))

theorem repeatEvent_idle (idle : (tget p.trigger.lines l).countdown = none) : repeatEvent l p = p := by
  unfold repeatEvent
  rw [if_neg (ne_true_of_eq_false (line_on loaded enabled)), idle]

theorem repeatEvent_counts (counts : (tget p.trigger.lines l).countdown ≠ none) : repeatEvent l p = repeatNow l p := by
  obtain ⟨c, at_⟩ := Option.ne_none_iff_exists'.mp counts
  unfold repeatEvent
  rw [if_neg (ne_true_of_eq_false (line_on loaded enabled)), at_]

end

/-- Settles O48. -/
theorem aLineIsSampledAndQualified : Obligations.ALineIsSampledAndQualified := by
  intro s l high st w raw settings work level
  subst settings work level
  have sample {q : Blocks} (h : lineSample l high s.part = q) : exec (.lineSample l high) s = becomes s (finish q) := congrArg (fun q => becomes s (finish q)) h
  have repeats {q : Blocks} (h : repeatEvent l s.part = q) : exec (.repeatEvent l) s = becomes s (finish q) := congrArg (fun q => becomes s (finish q)) h
  refine ⟨fun off => ⟨sample (lineSample_off off), repeats (repeatEvent_off off)⟩, fun loaded enabled => ?_⟩
  have line := line_of_enabled enabled
  refine ⟨fun first => sample (lineSample_first loaded enabled first), fun q n before stays => ?_, fun q dir takes p before differs stable press edge out => ?_,
    fun idle => repeats (repeatEvent_idle loaded enabled idle), fun counts => repeats ?_⟩
  · have counted := lineSample_stays loaded enabled before stays
    exact ⟨fun idle => sample (counted.trans (countRepeat_idle line idle)),
      fun c counts runs => sample (counted.trans (countRepeat_runs line counts runs)),
      fun c counts due => sample (counted.trans ((countRepeat_due (w := { tget s.part.trigger.lines l with stable := n }) line counts due).trans (repeatNow_withLine line)))⟩
  · subst out edge press
    refine sample ((lineSample_change loaded enabled before differs stable).trans ?_)
    unfold lineChange
    simp only [takes_eq]
    rfl
  · exact repeatEvent_counts loaded enabled counts

end Sys2Proof.Machine

/-! The obligations about readings of a gallery's level, the curve of a law, and how a law moves (R132 to R134, R139 to R142). -/

namespace Sys2Proof.Machine

/-! ### What an event at a source leaves of the level unit -/

/-- The cue store, the settings and the level unit are as they were. -/
def LevelKept (p q : Blocks) : Prop := q.store = p.store ∧ q.level = p.level

theorem levelKept : ActionClosed LevelKept where
  refl _ := ⟨rfl, rfl⟩
  trans a b := ⟨b.1.trans a.1, b.2.trans a.2⟩
  slots frame := ⟨frame.store, frame.level⟩
  triggers _ _ := ⟨rfl, rfl⟩

theorem LevelKept.sourceEvent (i : Nat) (dir : Option Direction) (p : Blocks) : LevelKept p (sourceEvent i dir p) := by
  unfold Machine.sourceEvent
  split
  · exact levelKept.refl p
  · split
    · exact levelKept.refl p
    · refine levelKept.trans (levelKept.triggers _ p : LevelKept p (modSource i (fun w => { w with pending := true, direction := dir }) p)) ?_
      dsimp only
      split
      · exact levelKept.takeSource i _
      · split
        · unfold lineWake
          split
          · exact levelKept.trans ⟨rfl, rfl⟩ (levelKept.opening (.trigger i) _)
          · exact levelKept.refl _
        · exact levelKept.refl _

/-! ### Crossings and stuck detection (R133, R134) -/

section
variable {p : Blocks} {g : Nat} {w : GalleryWork}

theorem gallery_withGallery (gallery : g < 16) : tget (withGallery g w p).level.galleries g = w := tget_tset_self _ g w gallery

theorem modGallery_withGallery (gallery : g < 16) (f : GalleryWork → GalleryWork) : modGallery g f (withGallery g w p) = withGallery g (f w) p := by
  unfold modGallery
  rw [gallery_withGallery gallery]
  simp only [withGallery, tset_tset]

/-- A crossing's notice and event leave its gallery's working record as it was written. -/
theorem gallery_crossed (gallery : g < 16) (i : Nat) (n : Notice) :
    tget (sourceEvent i none (putNotice n (withGallery g w p))).level.galleries g = w := by
  rw [(LevelKept.sourceEvent i none _).2, putNotice_level, gallery_withGallery gallery]

variable {prev r : Nat}

theorem crossing_not {a b c : Nat} (not : a ≤ b ∨ b < c) : ¬ (b < a ∧ c ≤ b) := by omega

theorem crossings_high (gallery : g < 16) (above : (tget p.store.settings.galleries g).high < r) (below : prev ≤ (tget p.store.settings.galleries g).high) :
    crossings g prev r (withGallery g w p) = sourceEvent (32 + g) none (putNotice (.level .high g r) (withGallery g { w with highFlag := true } p)) := by
  unfold crossings
  rw [modGallery_withGallery gallery]
  exact if_pos ⟨above, below⟩

theorem crossings_low (gallery : g < 16) (notHigh : r ≤ (tget p.store.settings.galleries g).high ∨ (tget p.store.settings.galleries g).high < prev)
    (below : r < (tget p.store.settings.galleries g).low) (above : (tget p.store.settings.galleries g).low ≤ prev) :
    crossings g prev r (withGallery g w p) = sourceEvent (48 + g) none (putNotice (.level .low g r) (withGallery g { w with lowFlag := true } p)) := by
  unfold crossings
  rw [modGallery_withGallery gallery, modGallery_withGallery gallery]
  exact (if_neg (fun high => crossing_not notHigh high)).trans (if_pos ⟨below, above⟩)

theorem crossings_none (notHigh : r ≤ (tget p.store.settings.galleries g).high ∨ (tget p.store.settings.galleries g).high < prev)
    (notLow : (tget p.store.settings.galleries g).low ≤ r ∨ prev < (tget p.store.settings.galleries g).low) :
    crossings g prev r (withGallery g w p) = withGallery g w p := by
  unfold crossings
  exact (if_neg (fun high => crossing_not notHigh high)).trans (if_neg (fun low => notLow.elim (Nat.not_le.mpr low.1) (Nat.not_lt.mpr low.2)))

/-- A crossing changes no setting, and of its gallery's working record the flags alone. -/
theorem crossings_kept (gallery : g < 16) : (crossings g prev r (withGallery g w p)).store = p.store ∧
    (tget (crossings g prev r (withGallery g w p)).level.galleries g).equalRun = w.equalRun ∧
    (tget (crossings g prev r (withGallery g w p)).level.galleries g).runReported = w.runReported := by
  unfold crossings
  simp only [modGallery_withGallery gallery]
  split
  · rw [gallery_crossed gallery, (LevelKept.sourceEvent _ none _).1, putNotice_store]
    exact ⟨rfl, rfl, rfl⟩
  · split
    · rw [gallery_crossed gallery, (LevelKept.sourceEvent _ none _).1, putNotice_store]
      exact ⟨rfl, rfl, rfl⟩
    · rw [gallery_withGallery gallery]
      exact ⟨rfl, rfl, rfl⟩

theorem runUp_eq (n : Nat) : runUp n = min 255 (n + 1) := by
  unfold runUp
  split <;> omega

/-- A gallery reads the same sample often enough, for the first time in this run. -/
def sticks (st : GallerySettings) (w : GalleryWork) : Prop := st.stuckCount ≠ 0 ∧ st.stuckCount ≤ runUp w.equalRun ∧ w.runReported = false

theorem stuckDetection_sticks (same : r = prev) (stuck : sticks (tget p.store.settings.galleries g) (tget p.level.galleries g)) :
    stuckDetection g prev r p = putNotice (.level .stuck g r) (withGallery g
      { tget p.level.galleries g with equalRun := runUp (tget p.level.galleries g).equalRun, stuckFlag := true, runReported := true } p) :=
  (if_pos same).trans (if_pos stuck)

theorem stuckDetection_runs (same : r = prev) (free : ¬ sticks (tget p.store.settings.galleries g) (tget p.level.galleries g)) :
    stuckDetection g prev r p = withGallery g { tget p.level.galleries g with equalRun := runUp (tget p.level.galleries g).equalRun } p :=
  (if_pos same).trans (if_neg free)

theorem stuckDetection_moves (moves : r ≠ prev) :
    stuckDetection g prev r p = withGallery g { tget p.level.galleries g with equalRun := 0, runReported := false }
      (if (tget p.level.galleries g).runReported = true then putNotice (.level .moving g r) p else p) := by
  refine (if_neg moves).trans ?_
  unfold modGallery withGallery
  split
  · rw [putNotice_level]
  · rfl

end

/-! ### Samples of a level (R132) -/

section
variable {p : Blocks} {g r : Nat}

theorem modGallery_read (g r : Nat) (p : Blocks) : modGallery g (fun w => w.read r) p = withGallery g ((tget p.level.galleries g).read r) p := rfl

theorem levelSample_first (gallery : g < 16) (loaded : p.store.loading = false) (first : (tget p.level.galleries g).sample = none) :
    levelSample g r p = readLaws g r (withGallery g ((tget p.level.galleries g).read r) p) := by
  unfold levelSample
  rw [if_neg (ne_true_of_eq_false loaded)]
  dsimp only
  rw [modGallery_read, gallery_withGallery gallery]
  simp only [GalleryWork.read, first]

theorem levelSample_next {prev : Nat} (gallery : g < 16) (loaded : p.store.loading = false) (before : (tget p.level.galleries g).sample = some prev) :
    levelSample g r p = readLaws g r (stuckDetection g prev r (crossings g prev r (withGallery g ((tget p.level.galleries g).read r) p))) := by
  unfold levelSample
  rw [if_neg (ne_true_of_eq_false loaded)]
  dsimp only
  rw [modGallery_read, gallery_withGallery gallery]
  simp only [GalleryWork.read, before]

end

/-- Settles O50. -/
theorem aReadingCrossesAndSticks : Obligations.AReadingCrossesAndSticks := by
  intro s g r st w w1 gallery settings work read
  subst settings work read
  have event {q : Blocks} (h : levelSample g r s.part = q) : exec (.levelSample g r) s = becomes s (finish q) := congrArg (fun q => becomes s (finish q)) h
  refine ⟨fun loading => event (if_pos loading), fun loaded first => event (levelSample_first gallery loaded first), fun prev loaded before => ?_, fun p => rfl⟩
  obtain ⟨store, equalRun, reported⟩ := crossings_kept (p := s.part) (w := (tget s.part.level.galleries g).read r) (prev := prev) (r := r) gallery
  generalize crossed : crossings g prev r (withGallery g ((tget s.part.level.galleries g).read r) s.part) = p2 at store equalRun reported
  refine ⟨_, p2, _, event ((levelSample_next gallery loaded before).trans (by rw [crossed])), rfl, fun above below => ?_, fun notHigh below above => ?_,
    fun notHigh notLow => ?_, fun run same count => ⟨fun counts reached fresh => ?_, fun free => ?_⟩, fun moves => ?_⟩
  · rw [crossings_high gallery above below] at crossed
    have record := crossed ▸ gallery_crossed gallery _ _
    exact ⟨record, record ▸ crossed.symm⟩
  · rw [crossings_low gallery notHigh below above] at crossed
    have record := crossed ▸ gallery_crossed gallery _ _
    exact ⟨record, record ▸ crossed.symm⟩
  · rw [crossings_none notHigh notLow] at crossed
    have record := crossed ▸ gallery_withGallery gallery
    exact ⟨record, record ▸ crossed.symm⟩
  · have counted : run = runUp (tget p2.level.galleries g).equalRun := by rw [count, equalRun, runUp_eq]; rfl
    rw [counted]
    refine stuckDetection_sticks same ⟨?_, ?_, reported.trans fresh⟩
    · rw [store]
      exact counts
    · rw [store, ← counted]
      exact reached
  · have counted : run = runUp (tget p2.level.galleries g).equalRun := by rw [count, equalRun, runUp_eq]; rfl
    rw [counted]
    refine stuckDetection_runs same ?_
    rintro ⟨counts, reached, fresh⟩
    rw [store] at counts reached
    rw [← counted] at reached
    have fresh : (tget s.part.level.galleries g).runReported = false := reported.symm.trans fresh
    rcases free with off | short | again
    · exact counts off
    · exact Nat.not_le.mpr short reached
    · exact absurd (fresh.symm.trans again) Bool.false_ne_true
  · rw [stuckDetection_moves moves, reported]
    rfl

/-! ### The curve (R139) -/

section
variable {line : Bool}

/-- The straight line between two points, times its width: the gains weighed by the distances. -/
def weighed (a b : CurvePoint) (r : Nat) : Nat := a.gain * ((b.level - a.level) - (r - a.level)) + b.gain * (r - a.level)

theorem weighed_eq {a b : CurvePoint} {r : Nat} (above : a.level ≤ r) (below : r ≤ b.level) : (weighed a b r : Int) =
    (a.gain : Int) * ((b.level : Int) - a.level) + ((b.gain : Int) - a.gain) * ((r : Int) - a.level) := by
  unfold weighed
  have rest : b.level - a.level - (r - a.level) = b.level - r := by omega
  rw [rest]
  push_cast [Nat.cast_sub above, Nat.cast_sub below]
  ring

theorem gainBetween_step (a b : CurvePoint) (r : Nat) : gainBetween false a b r = a.gain := rfl

/-- Between two points the line is rounded to the nearest whole number, a half going up. -/
theorem gainBetween_line {a b : CurvePoint} (rises : a.level < b.level) (r : Nat) :
    2 * (b.level - a.level) * gainBetween true a b r ≤ 2 * weighed a b r + (b.level - a.level) ∧
    2 * weighed a b r + (b.level - a.level) < 2 * (b.level - a.level) * (gainBetween true a b r + 1) :=
  ⟨Nat.mul_div_le _ _, Nat.lt_mul_div_succ _ (by omega)⟩

theorem gainBetween_lower {a b : CurvePoint} (rises : a.level < b.level) : gainBetween line a b a.level = a.gain := by
  cases line with
  | false => rfl
  | true =>
    obtain ⟨low, high⟩ := gainBetween_line rises a.level
    have start : weighed a b a.level = a.gain * (b.level - a.level) := by simp [weighed]
    generalize b.level - a.level = width at *
    rw [start] at low high
    have above : gainBetween true a b a.level < a.gain + 1 := by
      by_contra more
      nlinarith
    have below : a.gain < gainBetween true a b a.level + 1 := by
      by_contra more
      nlinarith
    omega

theorem curveFrom_next {a b : CurvePoint} {rest : List CurvePoint} {r : Nat} (beyond : b.level ≤ r) :
    curveFrom line a (b :: rest) r = curveFrom line b rest r := if_neg (Nat.not_lt.mpr beyond)

theorem curveFrom_before {a b : CurvePoint} {rest : List CurvePoint} {r : Nat} (before : r < b.level) :
    curveFrom line a (b :: rest) r = gainBetween line a b r := if_pos before

variable {rest : List CurvePoint} {a : CurvePoint}

/-- At a point of the curve, its gain. -/
theorem curveFrom_at (rising : (a :: rest).Pairwise (fun x y => x.level < y.level)) {q : CurvePoint} (point : q ∈ a :: rest) :
    curveFrom line a rest q.level = q.gain := by
  induction rest generalizing a with
  | nil => rw [List.mem_singleton.mp point, curveFrom]
  | cons b rest ih =>
    rcases List.mem_cons.mp point with rfl | later
    · have rises := List.rel_of_pairwise_cons rising (List.mem_cons_self ..)
      rw [curveFrom_before rises, gainBetween_lower rises]
    · have beyond : b.level ≤ q.level := by
        rcases List.mem_cons.mp later with rfl | later
        · exact Nat.le_refl _
        · exact Nat.le_of_lt (List.rel_of_pairwise_cons rising.of_cons later)
      rw [curveFrom_next beyond, ih rising.of_cons later]

/-- Between two neighbouring points, the gain between them. -/
theorem curveFrom_between (rising : (a :: rest).Pairwise (fun x y => x.level < y.level)) {i r : Nat} {x y : CurvePoint}
    (lower : (a :: rest)[i]? = some x) (upper : (a :: rest)[i + 1]? = some y) (above : x.level < r) (below : r < y.level) :
    curveFrom line a rest r = gainBetween line x y r := by
  induction rest generalizing a i with
  | nil => simp at upper
  | cons b rest ih =>
    cases i with
    | zero =>
      obtain rfl : a = x := by simpa using lower
      obtain rfl : b = y := by simpa using upper
      exact curveFrom_before below
    | succ i =>
      rw [List.getElem?_cons_succ] at lower upper
      have beyond : b.level ≤ r := by
        rcases List.mem_cons.mp (List.mem_of_getElem? lower) with rfl | later
        · exact Nat.le_of_lt above
        · exact Nat.le_of_lt ((List.rel_of_pairwise_cons rising.of_cons later).trans above)
      rw [curveFrom_next beyond, ih rising.of_cons lower upper]

/-- Beyond every point, the last one's gain. -/
theorem curveFrom_beyond {r : Nat} {e : CurvePoint} (last : (a :: rest).getLast? = some e) (beyond : ∀ q ∈ rest, q.level ≤ r) :
    curveFrom line a rest r = e.gain := by
  induction rest generalizing a with
  | nil =>
    obtain rfl : a = e := by simpa using last
    rfl
  | cons b rest ih =>
    rw [curveFrom_next (beyond b (List.mem_cons_self ..))]
    exact ih (by simpa using last) (fun q later => beyond q (List.mem_cons_of_mem b later))

end

section
variable {law : LawSettings} (accepted : LawAccepted law)
include accepted

theorem curve_first : ∃ a rest, law.curve = a :: rest := List.exists_cons_of_length_eq_add_one accepted.points

theorem curve_last {e : CurvePoint} (last : law.curve[4]? = some e) : law.curve.getLast? = some e := by
  rw [List.getLast?_eq_getElem?, accepted.points]
  exact last

theorem level_le_last {e : CurvePoint} (last : law.curve[4]? = some e) : ∀ q ∈ law.curve, q.level ≤ e.level := by
  intro q point
  obtain ⟨i, within, rfl⟩ := List.getElem_of_mem point
  obtain ⟨end_, rfl⟩ := List.getElem?_eq_some_iff.mp last
  rcases Nat.lt_or_ge i 4 with before | after
  · exact Nat.le_of_lt (List.pairwise_iff_getElem.mp accepted.rising i 4 within end_ before)
  · have points := accepted.points
    obtain rfl : i = 4 := by omega
    exact Nat.le_refl _

theorem first_le_level {a : CurvePoint} {rest : List CurvePoint} (curve : law.curve = a :: rest) {q : CurvePoint} (point : q ∈ law.curve) :
    a.level ≤ q.level := by
  have rising := curve ▸ accepted.rising
  rw [curve] at point
  rcases List.mem_cons.mp point with rfl | later
  · exact Nat.le_refl _
  · exact Nat.le_of_lt (List.rel_of_pairwise_cons rising later)

end

theorem targetGain_from {law : LawSettings} {a : CurvePoint} {rest : List CurvePoint} {r : Nat} (curve : law.curve = a :: rest) (reached : a.level ≤ r) :
    targetGain law r = curveFrom law.interpolate a rest r := by
  rw [targetGain, curve]
  exact if_neg (Nat.not_lt.mpr reached)

/-- Settles O51. -/
theorem theCurveGivesTheTarget : Obligations.TheCurveGivesTheTarget := by
  intro law r accepted
  obtain ⟨a, rest, curve⟩ := curve_first accepted
  have rising := curve ▸ accepted.rising
  refine ⟨fun x first below => ?_, fun e last beyond => ?_, fun i q point at_ => ?_, fun i x y lower upper above below => ?_⟩
  · obtain rfl : a = x := by simpa [curve] using first
    rw [targetGain, curve]
    exact if_pos below
  · have inside (q : CurvePoint) (point : q ∈ law.curve) : q.level ≤ r := (level_le_last accepted last q point).trans (Nat.le_of_lt beyond)
    rw [targetGain_from curve (inside a (curve ▸ List.mem_cons_self ..))]
    exact curveFrom_beyond (curve ▸ curve_last accepted last) (fun q later => inside q (curve ▸ List.mem_cons_of_mem a later))
  · have point := List.mem_of_getElem? point
    rw [at_, targetGain_from curve (first_le_level accepted curve point), curveFrom_at rising (curve ▸ point)]
  · have reached := (first_le_level accepted curve (List.mem_of_getElem? lower)).trans (Nat.le_of_lt above)
    have value : targetGain law r = gainBetween law.interpolate x y r := by
      rw [targetGain_from curve reached, curveFrom_between rising (curve ▸ lower) (curve ▸ upper) above below]
    refine ⟨fun steps => ?_, fun width line interpolated widthIs lineIs => ?_⟩
    · rw [value, steps, gainBetween_step]
    · have rises := above.trans below
      obtain ⟨low, high⟩ := gainBetween_line rises r
      rw [value, interpolated, lineIs, widthIs, ← weighed_eq (Nat.le_of_lt above) (Nat.le_of_lt below)]
      have span : (b : Nat) → b = y.level - x.level → (b : Int) = (y.level : Int) - x.level := by omega
      rw [← span _ rfl]
      exact ⟨by exact_mod_cast low, by exact_mod_cast high⟩

/-! ### A law at a reading (R140 to R142) -/

section
variable {law : LawSettings} {r target : Nat}

theorem jumps_not {jump : Bool} {m n : Nat} (not : jump = false ∨ n ≤ m) : ¬ (jump = true ∧ m < n) := by
  rintro ⟨jumps, beyond⟩
  exact not.elim (ne_false_of_eq_true jumps) (Nat.not_le.mpr beyond)

theorem movedGain_fresh : movedGain law r target none = target := rfl

variable {c : Nat}

theorem movedGain_jumpHigh (jump : law.jumpHigh = true) (above : lastLevel law < r) : movedGain law r target (some c) = lastGain law := if_pos ⟨jump, above⟩

theorem movedGain_jumpLow (notHigh : law.jumpHigh = false ∨ r ≤ lastLevel law) (jump : law.jumpLow = true)
    (below : r + law.hysteresis < (firstPoint law).level) : movedGain law r target (some c) = (firstPoint law).gain := by
  exact (if_neg (jumps_not notHigh)).trans (if_pos ⟨jump, below⟩)

theorem movedGain_steps (notHigh : law.jumpHigh = false ∨ r ≤ lastLevel law) (notLow : law.jumpLow = false ∨ (firstPoint law).level ≤ r + law.hysteresis) :
    movedGain law r target (some c) = stepToward law target c := by
  exact (if_neg (jumps_not notHigh)).trans (if_neg (jumps_not notLow))

theorem stepToward_up (up : c < target) : stepToward law target c = min target (c + (law.upRate + 9) / 10) := by
  unfold stepToward stepOf
  rw [if_pos up]
  split <;> omega

theorem stepToward_down (down : target < c) : stepToward law target c = max target (c - (law.downRate + 9) / 10) := by
  unfold stepToward stepOf
  rw [if_neg (Nat.lt_asymm down), if_pos down]
  split <;> omega

theorem stepToward_there : stepToward law c c = c := by simp only [stepToward, Nat.lt_irrefl, if_false]

theorem lastPoint_of {e : CurvePoint} (last : law.curve.getLast? = some e) : lastLevel law = e.level ∧ lastGain law = e.gain := by
  rw [lastLevel, lastGain, last]
  exact ⟨rfl, rfl⟩

theorem firstPoint_of {a : CurvePoint} (first : law.curve[0]? = some a) : firstPoint law = a := by
  rw [firstPoint, List.headD_eq_head?_getD, List.head?_eq_getElem?, first]
  rfl

theorem trimDue_iff (c target : Nat) (sent : Option Nat) : trimDue c target sent = true ↔
    sent = none ∨ ∃ n, sent = some n ∧ (n + 2 ≤ c ∨ c + 2 ≤ n ∨ c = target ∧ c ≠ n) := by
  cases sent with
  | none => simp [trimDue]
  | some n => simp only [trimDue, Bool.or_eq_true, Bool.and_eq_true, decide_eq_true_iff, or_assoc, reduceCtorEq, false_or, Option.some.injEq, exists_eq_left']

section
variable {p : Blocks} {ch : Nat} {w : LawWork}

/-- A law's working record after a move. -/
def LawWork.moved (w : LawWork) (law : LawSettings) (r target : Nat) : LawWork :=
  { w with target := some target, current := some (movedGain law r target w.current), frozen := false }

theorem moveLaw_trims (due : trimDue (movedGain law r target w.current) target w.lastSent = true) (mayGo : trimMayGo p ch = true) :
    moveLaw ch r target law w p = offerTrim ch (movedGain law r target w.current) (withLaw ch (w.moved law r target) p) :=
  if_pos ((Bool.and_eq_true _ _).mpr ⟨due, mayGo⟩)

theorem moveLaw_rests (rests : ¬ (trimDue (movedGain law r target w.current) target w.lastSent = true ∧ trimMayGo p ch = true)) :
    moveLaw ch r target law w p = withLaw ch (w.moved law r target) p :=
  if_neg (fun both => rests ((Bool.and_eq_true _ _).mp both))

theorem offerTrim_mapped {e : ChannelEntry} {gain : Nat} (mapped : channelEntry p ch = some e) : offerTrim ch gain p =
    offer { node := e.node, nodeChannel := some e.nodeChannel, channel := some ch, kind := .trim gain, cls := trimClass p ch
            origin := none, cueIndex := none, owner := none, toggle := none, attempts := 0 } p := by
  rw [offerTrim, offerChannel, mapped]

end

theorem lawFrozen_iff (p : Blocks) (g : Nat) : lawFrozen p g = true ↔ p.house.alarmState ≠ .normal ∨ (tget p.level.galleries g).stuckFlag = true ∧
    (tget p.store.settings.galleries g).stuckCount ≠ 0 ∧ (tget p.store.settings.galleries g).stuckCount ≤ (tget p.level.galleries g).equalRun := by
  simp only [lawFrozen, Bool.or_eq_true, Bool.and_eq_true, decide_eq_true_iff, underAlarm_iff, and_assoc, or_comm]

end

/-- Settles O52. -/
theorem aLawMovesAtAReading : Obligations.ALawMovesAtAReading := by
  intro p ch r law w g st work gallery settings
  subst work gallery settings
  refine ⟨fun frozen => if_pos ((lawFrozen_iff p law.gallery).mpr frozen), fun normal free accepted => ?_⟩
  have moves : lawFrozen p law.gallery = false := by
    refine Bool.eq_false_iff.mpr fun frozen => ?_
    rcases (lawFrozen_iff p law.gallery).mp frozen with alarm | ⟨stuck, counts, reached⟩
    · exact alarm normal
    · simp [stuck, counts, Nat.not_lt.mpr reached] at free
  have read : readLaw ch r law p = moveLaw ch r (targetGain law r) law (tget p.level.laws ch) p := if_neg (ne_true_of_eq_false moves)
  refine ⟨movedGain law r (targetGain law r) (tget p.level.laws ch).current, withLaw ch ((tget p.level.laws ch).moved law r (targetGain law r)) p, rfl,
    fun fresh => ?_, fun c first last current at0 at4 => ?_,
    fun e due mapped dueIs => ?_⟩
  · rw [fresh, movedGain_fresh]
  · obtain ⟨lastLevel, lastGain⟩ := lastPoint_of (curve_last accepted at4)
    rw [current, ← firstPoint_of at0, ← lastLevel, ← lastGain]
    refine ⟨movedGain_jumpHigh, fun notHigh => ⟨movedGain_jumpLow notHigh, fun notLow => ?_⟩⟩
    rw [movedGain_steps notHigh notLow]
    exact ⟨stepToward_up, stepToward_down, fun there => there ▸ stepToward_there⟩
  · refine ⟨fun isDue present idle => ?_, fun rests => ?_⟩
    · rw [read, moveLaw_trims ((trimDue_iff _ _ _).mpr (dueIs ▸ isDue)) ((trimMayGo_iff mapped).mpr ⟨present, idle⟩)]
      exact offerTrim_mapped (p := withLaw ch _ p) mapped
    · rw [read, moveLaw_rests]
      rintro ⟨isDue, mayGo⟩
      obtain ⟨present, idle⟩ := (trimMayGo_iff mapped).mp mayGo
      rcases rests with notDue | absent | outstanding
      · exact notDue (dueIs ▸ (trimDue_iff _ _ _).mp isDue)
      · exact ne_true_of_eq_false absent present
      · exact ne_true_of_eq_false idle outstanding

end Sys2Proof.Machine

/-! The obligation about the alarm line: its samples, the alarm entry, a re-assertion and the start of the override show (R164 to R168). -/

namespace Sys2Proof.Machine

/-! ### Samples of the alarm line (R164) -/

section
variable {p : Blocks} {a : Bool}

theorem alarmSample_same (loaded : p.store.loading = false) (same : p.house.qualified = some a) : alarmSample a p = modHouse (fun h => { h with run := 0 }) p := by
  unfold alarmSample
  rw [if_neg (ne_true_of_eq_false loaded), if_pos same]

theorem alarmSample_counts (loaded : p.store.loading = false) (differs : p.house.qualified ≠ some a) (short : alarmRun p.house a < 4) :
    alarmSample a p = modHouse (fun h => { h with run := alarmRun h a, runLevel := a }) p := by
  unfold alarmSample
  rw [if_neg (ne_true_of_eq_false loaded), if_neg differs, if_pos short]

theorem alarmSample_qualifies (loaded : p.store.loading = false) (differs : p.house.qualified ≠ some a) (run : 4 ≤ alarmRun p.house a) :
    alarmSample a p = alarmQualified p.house.qualified a (modHouse (fun h => { h with qualified := some a, run := 0 }) p) := by
  unfold alarmSample
  rw [if_neg (ne_true_of_eq_false loaded), if_neg differs, if_neg (Nat.not_lt.mpr run)]

variable {before : Option Bool}

theorem alarmQualified_asserted : alarmQualified before true p = assertion p := rfl

theorem assertion_normal (normal : p.house.alarmState = .normal) : assertion p = alarmEntry p := by rw [assertion, normal]

theorem assertion_alarm (alarm : p.house.alarmState = .alarm) : assertion p = p := by rw [assertion, alarm]

theorem assertion_held (held : p.house.alarmState = .alarmHeld) : assertion p = reassertion p := by rw [assertion, held]

theorem alarmQualified_cleared (alarm : p.house.alarmState = .alarm) :
    alarmQualified (some true) false p = putNotice (.alarm .held) (modHouse (fun h => { h with alarmState := .alarmHeld }) p) := by
  simp only [alarmQualified, clearing, alarm, Bool.false_eq_true, if_false]

theorem clearing_other (other : p.house.alarmState ≠ .alarm) : clearing p = p := by
  unfold clearing
  cases state : p.house.alarmState with
  | normal => rfl
  | alarm => exact absurd state other
  | alarmHeld => rfl

theorem alarmQualified_clear (first : before = none ∨ p.house.alarmState ≠ .alarm) : alarmQualified before false p = p := by
  rcases first with rfl | other
  · rfl
  · cases before with
    | none => rfl
    | some asserted =>
      cases asserted with
      | false => rfl
      | true => exact clearing_other other

end

/-! ### The override show (R166) -/

section
variable {p : Blocks}

theorem overrideStart_none (none : p.store.settings.overrideShow = none) : overrideStart p = p := by rw [overrideStart, none]

variable {id : Nat} (designated : p.store.settings.overrideShow = some id)
include designated

theorem overrideStart_noShow (absent : showOf p id = none) : overrideStart p = putNotice (.startRefused .alarm (some id) .noShow .check) p := by
  simp only [overrideStart, designated, absent]

variable {sh : ShowRecord} (stored : showOf p id = some sh)
include stored

theorem overrideStart_badClass (other : sh.cls ≠ .override) : overrideStart p = putNotice (.startRefused .alarm (some id) .badClass .check) p := by
  simp only [overrideStart, designated, stored, if_pos other]

variable (override : sh.cls = .override)
include override

theorem overrideStart_empty (empty : sh.cues = []) : overrideStart p = putNotice (.startRefused .alarm (some id) .emptyShow .check) p := by
  simp only [overrideStart, designated, stored, override, empty, ne_eq, not_true_eq_false, if_false, List.isEmpty_nil, if_true]

theorem overrideStart_starts (cues : sh.cues ≠ []) : overrideStart p = (startShow id .alarm false p).2 := by
  simp only [overrideStart, designated, stored, override, ne_eq, not_true_eq_false, if_false, List.isEmpty_iff, cues]

end

theorem overrideStart_frame (p : Blocks) : SlotsFrame p (overrideStart p) := by
  unfold overrideStart
  split
  · exact slotsFrame.refl p
  · split
    · exact slotsFrame.notice _ p
    · split
      · exact slotsFrame.notice _ p
      · split
        · exact slotsFrame.notice _ p
        · exact slotsFrame.startShow _ _ _ p

theorem loadEscalation_of_store {p q : Blocks} (store : q.store = p.store) : loadEscalation q =
    { q with house := { q.house with acknowledged := false, escalation := some { ticks := p.store.settings.ackTime * 100, fresh := true } } } := by
  rw [← store]
  rfl

/-! ### Alarm entry (R165) -/

/-- The alarm is entered and reported, and the waiting requests are answered OVERTAKEN. -/
def enteredAlarm (p : Blocks) : Blocks := putNotice (.alarm .entered)
  { p with
    house := { p.house with alarmState := .alarm }
    link := { p.link with
      requests := []
      replies := p.link.replies ++ p.link.requests.map (fun q => .refused q.tag q.kind .overtaken) } }

/-- A HUSH takes the place of the queue, and the sources are cleared. -/
def hushedAndCleared (p q : Blocks) : Blocks :=
  { offer hushTx { q with bus := { q.bus with queue := [] } } with
    trigger := { p.trigger with sources := tmap (fun w => { w with pending := false, rearm := none }) p.trigger.sources } }

section
variable (p : Blocks)

theorem enteredAlarm_bus : (enteredAlarm p).bus = p.bus := putNotice_bus _ _

theorem slotOf_enteredAlarm (k : Nat) : slotOf (enteredAlarm p) k = slotOf p k := slotOf_putNotice _ _ k

theorem showOf_enteredAlarm (id : Nat) : showOf (enteredAlarm p) id = showOf p id := by
  unfold showOf enteredAlarm
  rw [putNotice_store]

theorem enteredAlarm_trigger : (enteredAlarm p).trigger = p.trigger := putNotice_trigger _ _

theorem enteredAlarm_store : (enteredAlarm p).store = p.store := putNotice_store _ _

theorem hushNow_frame (q : Blocks) : SlotsFrame q (hushNow q) :=
  SlotsFrame.trans (by constructor <;> rfl : SlotsFrame q (emptyQueue q)) (offerFrame_offer hushTx _).others

theorem clearSources_hushed {q : Blocks} (trigger : q.trigger = p.trigger) : clearSources (hushNow q) = hushedAndCleared p q := by
  unfold clearSources hushedAndCleared
  rw [(hushNow_frame q).trigger.trans trigger]
  rfl

theorem alarmEntry_eq : alarmEntry p =
    { overrideStart (hushedAndCleared p (clearAll .alarm (enteredAlarm p))) with
      house := { (overrideStart (hushedAndCleared p (clearAll .alarm (enteredAlarm p)))).house with
        acknowledged := false, escalation := some { ticks := p.store.settings.ackTime * 100, fresh := true } } } := by
  have cleared := slotsFrame.clearAll .alarm (enteredAlarm p)
  rw [← clearSources_hushed p (cleared.trigger.trans (enteredAlarm_trigger p))]
  refine loadEscalation_of_store ?_
  exact (overrideStart_frame _).store.trans ((hushNow_frame _).store.trans (cleared.store.trans (enteredAlarm_store p)))

end

/-! ### A re-assertion (R168) -/

/-- The alarm again, its escalation timer loaded, and a HUSH in the place of the queue. -/
def hushedAlarm (p : Blocks) : Blocks := offer hushTx
  { p with
    house := { p.house with alarmState := .alarm, acknowledged := false, escalation := some { ticks := p.store.settings.ackTime * 100, fresh := true } }
    bus := { p.bus with queue := [] } }

theorem reassertion_eq (p : Blocks) : reassertion p = putNotice (.alarm .reasserted) (overrideAgain (hushedAlarm p)) := rfl

section
variable (p : Blocks)

theorem hushedAlarm_store : (hushedAlarm p).store = p.store := (offerFrame_offer hushTx _).others.store

/-- The HUSH loses no cue: the queue it enters is empty. -/
theorem hushedAlarm_runner : (hushedAlarm p).runner = p.runner := by
  obtain ⟨q, queued⟩ : ∃ q, q = { p with
    house := { p.house with alarmState := .alarm, acknowledged := false, escalation := some { ticks := p.store.settings.ackTime * 100, fresh := true } }
    bus := { p.bus with queue := [hushTx] } } := ⟨_, rfl⟩
  have heads : hushedAlarm p = takeHead q := by rw [queued]; rfl
  rw [heads]
  rcases takeHead_cases q with stays | ⟨rest, j, moves, _⟩
  · rw [stays, queued]
  · rw [moves, queued]

theorem slotOf_hushedAlarm (k : Nat) : slotOf (hushedAlarm p) k = slotOf p k := by
  unfold slotOf
  rw [hushedAlarm_runner]

theorem slotHolding_hushedAlarm (id : Nat) : slotHolding (hushedAlarm p) id = slotHolding p id := by
  unfold slotHolding
  simp only [slotOf_hushedAlarm]

theorem showOf_hushedAlarm (id : Nat) : showOf (hushedAlarm p) id = showOf p id := by
  unfold showOf
  rw [hushedAlarm_store]

variable {p} {id : Nat}

theorem overrideAgain_held {k : Nat} (designated : p.store.settings.overrideShow = some id) (holds : slotHolding p id = some k) :
    overrideAgain (hushedAlarm p) = beginAgain k .alarm (hushedAlarm p) := by
  simp only [overrideAgain, overrideSlot, hushedAlarm_store, designated, slotHolding_hushedAlarm, holds]

theorem overrideAgain_free (free : ∀ id, p.store.settings.overrideShow = some id → slotHolding p id = none) :
    overrideAgain (hushedAlarm p) = overrideStart (hushedAlarm p) := by
  unfold overrideAgain overrideSlot
  rw [hushedAlarm_store]
  cases designated : p.store.settings.overrideShow with
  | none => rfl
  | some id => simp only [slotHolding_hushedAlarm, free id designated]

end

/-! ### A start with origin ALARM (R53) -/

section
variable {p : Blocks} {id k : Nat} {sh : ShowRecord} (passes : StartPasses p id .alarm sh) (takes : Takes p id k)
  (lower : ∀ ch ∈ sh.channels, ∀ e, topEntry p ch = some e → e.cls.rank < sh.cls.rank)
include passes takes lower

/-- The start, with the endings foreseen at its grant. -/
theorem startShow_alarm : ∃ ends, startShow id .alarm false p = (.accepted k .claimed, setForesight .idle (afterClaim pendingScan k id .alarm
    (grant pendingScan k (setSlot k (some (takenAs id sh .alarm)) (setForesight (.known ends) p))))) :=
  ⟨_, startShow_claimed passes takes lower⟩

end

theorem afterClaim_alarm {rescan : Blocks → Blocks} {k id : Nat} {q : Blocks} {r : SlotRec} (busy : slotOf q k = some r) :
    afterClaim rescan k id .alarm q = goSlot k (setSlot k (some { r with missing := [] }) q) := by
  unfold afterClaim
  rw [modSlot_some busy]

/-- With every stack empty and no group, the claim granted is the slot's record and its entries, and GO follows. -/
theorem afterClaim_alarm_free {p : Blocks} {id k : Nat} {sh : ShowRecord} {ends : List Nat} (stored : showOf p id = some sh) (range : k < 16)
    (free : ∀ ch, ownersOf p ch = []) (noGroups : p.runner.groups = []) (idle : p.runner.foresight = .idle) : ∃ owners uid,
    (sh.channels.Nodup → (∀ ch ∈ sh.channels, ch < 128) → ∀ ch ∈ sh.channels, ∃ n, (tget owners ch : List StackEntry) =
      [{ cls := sh.cls, slot := k, showId := id, last := none, uid := n }]) ∧
    setForesight .idle (afterClaim pendingScan k id .alarm (grant pendingScan k (setSlot k (some (takenAs id sh .alarm)) (setForesight (.known ends) p)))) =
      goSlot k (setSlot k (some { takenAs id sh .alarm with state := .priming, step := 1 }) { p with map := { p.map with owners := owners, nextUid := uid } }) := by
  obtain ⟨t, taken⟩ : ∃ t, t = takenAs id sh .alarm := ⟨_, rfl⟩
  obtain ⟨g, granted⟩ : ∃ g, g = t.granted ((primeList p sh).map (fun c => c.1)) := ⟨_, rfl⟩
  obtain ⟨p0, start⟩ : ∃ p0, p0 = setSlot k (some t) (setForesight (.known ends) p) := ⟨_, rfl⟩
  have unowned : ∀ ch, ownersOf p0 ch = [] := fun ch => by rw [start]; exact free ch
  have busy : slotOf p0 k = some t := by rw [start]; exact slotOf_setSlot_self k _ _ range
  have show_ : showOf p0 t.showId = some sh := by rw [start, taken]; exact stored
  have primes : primeList p0 sh = primeList p sh := by rw [start]; rfl
  obtain ⟨owners, uid, _, pushed, _, listed⟩ := pushEntries k t sh.channels (setSlot k (some g) p0)
  refine ⟨owners, uid, fun once low ch member => ?_, ?_⟩
  · obtain ⟨n, _, _, top⟩ := listed once low ch member
    exact ⟨n, by rw [top, show ownersOf (setSlot k (some g) p0) ch = [] from unowned ch, taken]; rfl⟩
  · have grants := grant_free busy show_ (fun ch _ => unowned ch) (by rw [start]; exact noGroups)
    rw [primes, ← granted, pushed] at grants
    obtain ⟨z, claimed⟩ : ∃ z, z = setSlot k (some { t with state := .priming, step := 1 }) { p with map := { p.map with owners := owners, nextUid := uid } } := ⟨_, rfl⟩
    have slot : slotOf (grant pendingScan k p0) k = some g := by rw [grants]; exact slotOf_setSlot_self k _ _ range
    have same : setSlot k (some { g with missing := [] }) (grant pendingScan k p0) = setForesight (.known ends) z := by
      rw [grants, claimed, granted, start, taken]
      simp only [setSlot, tset_tset]
      rfl
    have still : setForesight .idle z = z := by rw [← idle, claimed]; rfl
    rw [← taken, ← start, afterClaim_alarm slot, same, goSlot_setForesight, ← claimed]
    calc setForesight .idle (setForesight (.known ends) (goSlot k z)) = setForesight .idle (goSlot k z) := rfl
      _ = goSlot k z := by rw [← goSlot_setForesight, still]

/-- Settles O53. -/
theorem theAlarmLineIsQualified : Obligations.TheAlarmLineIsQualified := by
  refine ⟨fun s a n p run written => ?sample, fun p => ?entry, fun p => ?override, fun p => ?again, fun p id k sh r0 range stored cues none low free lowest lower taken => ?start⟩
  case sample =>
    subst run written
    have event {q : Blocks} (h : alarmSample a s.part = q) : exec (.alarmLineSample a) s = becomes s (finish q) := congrArg (fun q => becomes s (finish q)) h
    refine ⟨fun loading => event (if_pos loading), fun loaded => ⟨fun same => event (alarmSample_same loaded same),
      fun differs short => event (alarmSample_counts loaded differs short), fun differs run => ?_⟩⟩
    have qualifies := alarmSample_qualifies loaded differs run
    refine ⟨fun asserted normal => event ?_, fun asserted held => event ?_, fun clear before alarm => event ?_, fun stays => event ?_⟩
    · subst asserted
      exact qualifies.trans (assertion_normal normal)
    · subst asserted
      exact qualifies.trans (assertion_held held)
    · subst clear
      rw [before] at qualifies
      exact qualifies.trans (alarmQualified_cleared alarm)
    · rcases stays with ⟨rfl, alarm⟩ | ⟨rfl, first⟩
      · exact qualifies.trans (assertion_alarm alarm)
      · exact qualifies.trans (alarmQualified_clear first)
  case entry =>
    have cleared := slotsFrame.clearAll .alarm (enteredAlarm p)
    refine ⟨enteredAlarm p, clearAll .alarm (enteredAlarm p), _, rfl, cleared, (clearAll_bus _ _).trans (enteredAlarm_bus p), clearAll_free _ _,
      clearAll_unowned _ _, rfl, rfl, fun room => ?_, fun k r sh holds stored => ?_, rfl, alarmEntry_eq p⟩
    · simpa only [slotOf_enteredAlarm, endStep, reduceCtorEq, false_and, if_false] using (clearAll_notices .alarm _ room).2
    · rw [← loadTimer_eq]
      exact clearAll_rested .alarm ((slotOf_enteredAlarm p k).trans holds) ((showOf_enteredAlarm p _).trans stored)
  case override =>
    exact ⟨overrideStart_none, fun id designated => ⟨overrideStart_noShow designated, fun sh stored => ⟨overrideStart_badClass designated stored,
      overrideStart_empty designated stored, overrideStart_starts designated stored⟩⟩⟩
  case again =>
    refine ⟨hushedAlarm p, overrideAgain (hushedAlarm p), rfl, fun id k designated holds => overrideAgain_held designated holds,
      fun id k r sh designated holds busy stored => ?_, overrideAgain_free, reassertion_eq p⟩
    rw [overrideAgain_held designated holds]
    have named := showId_of_holding holds busy
    exact beginAgain_eq .alarm ((slotOf_hushedAlarm p k).trans busy) ((showOf_hushedAlarm p _).trans (named ▸ stored))
  case start =>
    subst taken
    have passes : StartPasses p id .alarm sh := ⟨range, stored, .inr rfl, .inr rfl, cues, .inl ⟨fun n => ⟨nofun, nofun, nofun⟩, nofun⟩⟩
    obtain ⟨ends, starts⟩ := startShow_alarm passes ⟨none, low, free, lowest⟩ lower
    refine ⟨ends, _, rfl, fun r busy => ?_, fun unowned noGroups idle => ?_⟩
    · rw [starts, afterClaim_alarm busy]
    · obtain ⟨owners, uid, listed, goes⟩ := afterClaim_alarm_free (ends := ends) stored low unowned noGroups idle
      exact ⟨owners, uid, listed, by rw [starts, goes]⟩

end Sys2Proof.Machine

/-! The obligation about entry to the transaction queue (R90 to R94, R107). -/

namespace Sys2Proof.Machine

/-! ### The queue ordered by class (R90, R92) -/

/-- A transaction enters behind its own and every higher class and ahead of every lower one. -/
theorem insertTx_splits (t : Transaction) {q : List Transaction} (ordered : QueueOrdered q) : ∃ before after, q = before ++ after ∧
    (∀ x ∈ before, t.cls.rank ≤ x.cls.rank) ∧ (∀ x ∈ after, x.cls.rank < t.cls.rank) ∧ insertTx t q = before ++ t :: after := by
  induction q with
  | nil => exact ⟨[], [], rfl, nofun, nofun, rfl⟩
  | cons x xs ih =>
    obtain ⟨lowest, rest⟩ := List.pairwise_cons.mp ordered
    by_cases lower : x.cls.below t.cls = true
    · have first := (below_iff _ _).mp lower
      have below : ∀ y ∈ x :: xs, y.cls.rank < t.cls.rank :=
        List.forall_mem_cons.mpr ⟨first, fun y later => ((not_below_iff _ _).mp (lowest y later)).trans_lt first⟩
      exact ⟨[], x :: xs, rfl, fun _ member => absurd member List.not_mem_nil, below, if_pos lower⟩
    · obtain ⟨before, after, split, higher, below, inserted⟩ := ih rest
      have first := (not_below_iff _ _).mp (Bool.eq_false_iff.mpr lower)
      refine ⟨x :: before, after, congrArg (x :: ·) split, List.forall_mem_cons.mpr ⟨first, higher⟩, below, ?_⟩
      exact (if_neg lower).trans (congrArg (x :: ·) inserted)

section
variable {front : List Transaction} {g : Transaction}

/-- The last of an ordered queue is of its lowest class. -/
theorem lowestClass_last (ordered : QueueOrdered (front ++ [g])) : lowestClass (front ++ [g]) = some g.cls := by
  induction front with
  | nil => rfl
  | cons x front ih =>
    rw [List.cons_append] at ordered ⊢
    obtain ⟨lowest, rest⟩ := List.pairwise_cons.mp ordered
    rw [lowestClass, ih rest]
    exact if_neg (ne_true_of_eq_false (lowest g (List.mem_append_right _ List.mem_cons_self)))

theorem youngestOf_last : youngestOf g.cls (front ++ [g]) = some g := by
  simp only [youngestOf, List.reverse_append, List.reverse_singleton, List.singleton_append, List.find?_cons, decide_true]

theorem dropYoungest_last : dropYoungest g.cls (front ++ [g]) = front := by
  simp only [dropYoungest, List.reverse_append, List.reverse_singleton, List.singleton_append, List.eraseP_cons, decide_true, cond_true, List.reverse_reverse]

end

/-! ### Losses (R71, R93) -/

theorem addSkipped_of_busy {p : Blocks} {k : Nat} {r : SlotRec} (h : slotOf p k = some r) :
    addSkipped k p = setSlot k (some { r with skipped := moreSkipped r.skipped }) p := modSlot_some h _

theorem reportCueLost_eq (t : Transaction) (cause : LostCause) (p : Blocks) : reportCueLost t cause p = afterLoss t cause p := by
  unfold reportCueLost afterLoss
  cases t.origin with
  | none => rfl
  | some k =>
    cases t.cueIndex with
    | none => rfl
    | some ci =>
      cases busy : slotOf p k with
      | none => simp only [busy]
      | some r =>
        simp only [busy]
        exact addSkipped_of_busy ((slotOf_putNotice _ p k).trans busy)

/-! ### Offers (R91 to R94) -/

section
variable {p : Blocks} {t : Transaction}

theorem reachesAbsent_iff (kind : TxKind) : kind.reachesAbsent = true ↔ kind = .poll ∨ kind = .hush := by
  cases kind <;> simp [TxKind.reachesAbsent]

section
variable (poll : t.kind ≠ .poll) (hush : t.kind ≠ .hush) (absent : nodePresent p t.node = false)
include poll hush absent

theorem offer_absent : (!t.kind.reachesAbsent && !nodePresent p t.node) = true := by
  have stays : t.kind.reachesAbsent = false := Bool.eq_false_iff.mpr fun reaches => ((reachesAbsent_iff _).mp reaches).elim poll hush
  rw [stays, absent]
  rfl

theorem offer_skips {k ci : Nat} (origin : t.origin = some k) (cue : t.cueIndex = some ci) : offer t p = addSkipped k p := by
  rw [offer, if_pos (offer_absent poll hush absent), origin, cue]

theorem offer_refused (bare : t.origin = none ∨ t.cueIndex = none) : offer t p = p := by
  rw [offer, if_pos (offer_absent poll hush absent)]
  rcases bare with origin | cue
  · rw [origin]
  · rw [cue]
    cases t.origin <;> rfl

end

theorem offer_enters (reaches : t.kind = .poll ∨ t.kind = .hush ∨ nodePresent p t.node = true) : offer t p = takeHead (enterQueue t p) := by
  refine if_neg (ne_true_of_eq_false ?_)
  rcases reaches with poll | hush | present
  · rw [(reachesAbsent_iff _).mpr (.inl poll)]
    rfl
  · rw [(reachesAbsent_iff _).mpr (.inr hush)]
    rfl
  · rw [present, Bool.not_true, Bool.and_false]

theorem enterQueue_room (room : p.bus.queue.length < 64) :
    enterQueue t p = { p with bus := { p.bus with queue := insertTx t p.bus.queue } } := if_pos room

section
variable {front : List Transaction} {g : Transaction} (fits : QueueFits p) (queue : p.bus.queue = front ++ [g]) (full : p.bus.queue.length = 64)
include fits queue full

theorem enterQueue_displaces (lower : g.cls.rank < t.cls.rank) :
    enterQueue t p = afterLoss g .queueFull { p with bus := { p.bus with queue := insertTx t front } } := by
  have ordered := queue ▸ fits.1
  unfold enterQueue
  rw [if_neg (Nat.not_lt.mpr full.ge), queue, lowestClass_last ordered, ← reportCueLost_eq]
  refine (if_pos ((below_iff _ _).mpr lower)).trans ?_
  rw [youngestOf_last, dropYoungest_last]

theorem enterQueue_drops (higher : t.cls.rank ≤ g.cls.rank) : enterQueue t p = afterLoss t .queueFull p := by
  have ordered := queue ▸ fits.1
  unfold enterQueue
  rw [if_neg (Nat.not_lt.mpr full.ge), queue, lowestClass_last ordered, ← reportCueLost_eq]
  exact if_neg (ne_true_of_eq_false ((not_below_iff _ _).mpr higher))

end

/-! ### The head goes to a free bus (R94, R95) -/

theorem takeHead_rests (rests : p.store.loading = true ∨ p.bus.queue = []) : takeHead p = p := by
  unfold takeHead
  cases p.bus.job with
  | some j => rfl
  | none =>
    dsimp only
    split
    · rfl
    next loaded =>
      rcases rests with loading | empty
      · exact absurd loading loaded
      · rw [empty]

theorem takeHead_takes {x : Transaction} {rest : List Transaction} (free : p.bus.job = none) (loaded : p.store.loading = false) (queue : p.bus.queue = x :: rest) :
    takeHead p = { p with bus := { p.bus with
      queue := rest
      job := some { tx := { x with toggle := if x.kind = .hush then none else some (nodeRecord p x.node).toggle, attempts := 1 },
                    timeout := p.store.settings.replyTimeout, retries := p.store.settings.retryCount } } } := by
  simp only [takeHead, free, loaded, queue, Bool.false_eq_true, if_false]

end

/-- Settles O54. -/
theorem aTransactionEntersByClass : Obligations.ATransactionEntersByClass := by
  intro p t fits
  refine ⟨fun poll hush absent => ⟨fun k r ci origin cue busy => ?_, offer_refused poll hush absent⟩,
    fun reaches => ⟨fun room => ?_, fun front g queue full => ⟨fun lower => ?_, fun higher => ?_⟩⟩,
    fun j busy => takeHead_busy busy, fun _ rests => takeHead_rests rests, fun x rest free loaded queue => takeHead_takes free loaded queue⟩
  · rw [offer_skips poll hush absent origin cue, addSkipped_of_busy busy]
  · obtain ⟨before, after, split, higher, lower, inserted⟩ := insertTx_splits t fits.1
    exact ⟨before, after, split, higher, lower, by rw [offer_enters reaches, enterQueue_room room, inserted]⟩
  · have ordered : QueueOrdered front := (List.pairwise_append.mp (queue ▸ fits.1)).1
    obtain ⟨before, after, split, above, below, inserted⟩ := insertTx_splits t ordered
    exact ⟨before, after, split, above, below, by rw [offer_enters reaches, enterQueue_displaces fits queue full lower, inserted]⟩
  · rw [offer_enters reaches, enterQueue_drops fits queue full higher]

end Sys2Proof.Machine

/-! SUPPORT. A node's answer: the bytes of its reply, what a success is handed to, what a READY does, a node that falls and a node that returns (R27, R50, R79, R96, R102, R104, R143, R184). -/

namespace Sys2Proof.Machine

/-! ### The bytes of a reply (R184) -/

theorem splitCheck_append {body check : List Byte} (two : check.length = 2) : splitCheck (body ++ check) = (body, check) := by
  have cut : (body ++ check).length - 2 = body.length := by rw [List.length_append, two, Nat.add_sub_cancel]
  rw [splitCheck, cut, List.take_left, List.drop_left]

section
variable {node flags : Byte} {more check : List Byte}

theorem parseReply_framed (two : check.length = 2) : parseReply (0x5A#8 :: node :: flags :: more ++ check) =
    if check = crcBytes (node :: flags :: more) then
      (answerOf flags more).map (fun a => { node := node.toNat, toggle := flags.getLsbD 7, answer := a })
    else none := by
  have cut : splitCheck (node :: flags :: (more ++ check)) = (node :: flags :: more, check) := splitCheck_append (body := node :: flags :: more) two
  simp only [List.cons_append, parseReply, cut]
  rfl

theorem parseReply_checked (checked : check = crcBytes (node :: flags :: more)) : parseReply (0x5A#8 :: node :: flags :: more ++ check) =
    (answerOf flags more).map (fun a => { node := node.toNat, toggle := flags.getLsbD 7, answer := a }) := by
  rw [parseReply_framed (by rw [checked]; rfl), if_pos checked]

theorem parseReply_unchecked (two : check.length = 2) (wrong : check ≠ crcBytes (node :: flags :: more)) :
    parseReply (0x5A#8 :: node :: flags :: more ++ check) = none := by
  rw [parseReply_framed two, if_neg wrong]

/-- A reply that is too short, or does not begin with the start byte. -/
theorem parseReply_none {bytes : List Byte} (bad : bytes.length < 5 ∨ bytes.head? ≠ some 0x5A#8) : parseReply bytes = none := by
  unfold parseReply
  split
  next rest =>
    have short : rest.length < 4 := by
      rcases bad with short | start
      · simpa using Nat.lt_of_succ_lt_succ short
      · exact absurd rfl start
    have body : (splitCheck rest).1.length < 2 := by
      simp only [splitCheck, List.length_take]
      omega
    split
    next node flags more check cut =>
      rw [cut] at body
      simp only [List.length_cons] at body
      omega
    next => rfl
  next => rfl

theorem nakReasonOf_eq (b : Byte) : nakReasonOf b = [NakReason.noMedia, .busy, .badRequest][b.toNat]? := by
  unfold nakReasonOf
  have value (n : Byte) : b = n ↔ b.toNat = n.toNat := BitVec.toNat_inj.symm
  simp only [value]
  rcases h : b.toNat with _ | _ | _ | n <;> rfl

theorem answerOf_ack (code : flags &&& 3 = 0) : answerOf flags [] = some .ack := by
  unfold answerOf
  rw [code]
  rfl

theorem answerOf_ready (code : flags &&& 3 = 1) : answerOf flags [] = some .ready := by
  unfold answerOf
  rw [code]
  rfl

theorem answerOf_status (code : flags &&& 3 = 3) : answerOf flags [] = some .status := by
  unfold answerOf
  rw [code]
  rfl

theorem answerOf_nak (code : flags &&& 3 = 2) (b : Byte) : answerOf flags [b] = (nakReasonOf b).map NodeAnswer.nak := by
  unfold answerOf
  rw [code]
  rfl

/-- Bytes after the flags of an answer that is no NAK. -/
theorem answerOf_long (other : flags &&& 3 ≠ 2) (long : more ≠ []) : answerOf flags more = none := by
  unfold answerOf
  split
  · exact absurd rfl long
  · exact absurd rfl long
  next code => exact absurd code other
  · exact absurd rfl long
  · rfl

/-- A NAK with no reason of R184. -/
theorem answerOf_badNak (code : flags &&& 3 = 2) (bad : ∀ b, more = [b] → 2 < b.toNat) : answerOf flags more = none := by
  unfold answerOf
  rw [code]
  split
  next first => exact absurd first (by decide)
  next first => exact absurd first (by decide)
  next b _ =>
    rw [nakReasonOf_eq, List.getElem?_eq_none (bad b rfl)]
    rfl
  next first => exact absurd first (by decide)
  · rfl

end

/-! ### What a success is handed to (R27, R96, R143) -/

section
variable {p : Blocks} {t : Transaction} {wasAbsent : Bool}

theorem handSuccess_cue (poll : t.kind ≠ .poll) (trim : t.kind.isTrim = false) (prepare : ∀ clip, t.kind ≠ .prepare clip) :
    handSuccess t wasAbsent p = updateLast t p := by
  unfold handSuccess
  cases kind : t.kind with
  | prepare clip => exact absurd kind (prepare clip)
  | trim gain => rw [kind] at trim; exact nomatch trim
  | poll => exact absurd kind poll
  | play clip lvl loop again start => rfl
  | scene n fade => rfl
  | level lvl fade => rfl
  | pulse d => rfl
  | pause => rfl
  | stop => rfl
  | hush => rfl

theorem updateLast_cue {ch uid ci : Nat} (channel : t.channel = some ch) (owner : t.owner = some uid) (cue : t.cueIndex = some ci) :
    updateLast t p = setOwners ch ((ownersOf p ch).map (fun e =>
      if e.uid = uid then { e with last := lastAfter t.kind (cueOffset p e.showId ci) e.last } else e)) p := by
  rw [updateLast, channel, owner, cue]

theorem updateLast_none (bare : t.cueIndex = none) : updateLast t p = p := by
  rw [updateLast, bare]
  cases t.channel <;> rfl

theorem handSuccess_prepare {k ch clip : Nat} (prepare : t.kind = .prepare clip) (origin : t.origin = some k) (channel : t.channel = some ch) :
    handSuccess t wasAbsent p = readySlot k ch clip p := by
  simp only [handSuccess, prepare, origin, channel, Option.getD_some]

theorem handSuccess_trim {ch gain : Nat} (trim : t.kind = .trim gain) (channel : t.channel = some ch) :
    handSuccess t wasAbsent p = trimAcked ch gain p := by
  simp only [handSuccess, trim, channel, Option.getD_some]

theorem trimAcked_off {ch gain : Nat} (off : lawOn p ch = none) : trimAcked ch gain p = p := by
  rw [trimAcked, off]
  rfl

theorem trimAcked_law {ch gain : Nat} (law : lawOn p ch ≠ none) : trimAcked ch gain p = withLaw ch { tget p.level.laws ch with lastSent := some gain } p :=
  if_pos (Option.isSome_iff_ne_none.mpr law)

theorem handSuccess_poll (poll : t.kind = .poll) : handSuccess t false p = p ∧ handSuccess t true p = nodeReturns t.node p := by
  simp only [handSuccess, poll, if_true, Bool.false_eq_true, if_false, and_self]

end

/-! ### READY (R50, R79) -/

theorem slotReady_alone {p : Blocks} {k : Nat} {r : SlotRec} (h : slotOf p k = some r) (alone : r.group = none) : slotReady k p = goSlot k p := by
  simp only [slotReady, h, alone]

theorem slotReady_grouped {p : Blocks} {k l : Nat} {r : SlotRec} (h : slotOf p k = some r) (grouped : r.group = some l) :
    slotReady k p = considerGroup l (setSlot k (some { r with step := 2, primeTimer := none }) p) := by
  simp only [slotReady, h, grouped]

theorem readySlot_free {p : Blocks} {k ch clip : Nat} (free : slotOf p k = none) : readySlot k ch clip p = p := by
  rw [readySlot, slotShow, free]

section
variable {p : Blocks} {k ch clip : Nat} {r : SlotRec} {sh : ShowRecord} (h : slotOf p k = some r) (stored : showOf p r.showId = some sh)
include h stored

theorem readySlot_ignored (other : r.state ≠ .priming ∨ ch ∉ r.missing ∨ (ch, clip) ∉ primeList p sh) : readySlot k ch clip p = p := by
  rw [readySlot, slotShow_of h stored]
  refine if_neg ?_
  rintro ⟨priming, awaited, prepared⟩
  exact other.elim (· priming) (·.elim (· awaited) (· prepared))

variable (priming : r.state = .priming) (awaited : ch ∈ r.missing) (prepared : (ch, clip) ∈ primeList p sh)
include priming awaited prepared

theorem readySlot_counts : readySlot k ch clip p =
    if (r.missing.filter (fun c => c ≠ ch)).isEmpty ∧ r.step = 1 then slotReady k (setSlot k (some { r with missing := r.missing.filter (fun c => c ≠ ch) }) p)
    else setSlot k (some { r with missing := r.missing.filter (fun c => c ≠ ch) }) p := by
  rw [readySlot, slotShow_of h stored]
  exact if_pos ⟨priming, awaited, prepared⟩

theorem readySlot_waits (waits : r.missing.filter (fun c => c ≠ ch) ≠ [] ∨ r.step ≠ 1) :
    readySlot k ch clip p = setSlot k (some { r with missing := r.missing.filter (fun c => c ≠ ch) }) p := by
  rw [readySlot_counts h stored priming awaited prepared, if_neg]
  rintro ⟨done, step⟩
  exact waits.elim (· (List.isEmpty_iff.mp done)) (· step)

theorem readySlot_last (last : r.missing.filter (fun c => c ≠ ch) = []) (step : r.step = 1) :
    readySlot k ch clip p = slotReady k (setSlot k (some { r with missing := [] }) p) := by
  rw [readySlot_counts h stored priming awaited prepared, last]
  exact if_pos ⟨rfl, step⟩

end

/-! ### A node that falls (R102) -/

theorem discardedAt_iff (n : Nat) (t : Transaction) : discardedAt n t = true ↔ t.node = n ∧ t.kind ≠ .poll := by
  simp only [discardedAt, Bool.and_eq_true, decide_eq_true_iff]

/-- The cues of a slot among some transactions. -/
def lostCues (k : Nat) (ts : List Transaction) : List Transaction := ts.filter (fun t => t.origin = some k ∧ t.cueIndex ≠ none)

theorem lostCues_discarded (k n : Nat) (q : List Transaction) :
    lostCues k (q.filter (discardedAt n)) = q.filter (fun t => t.node = n ∧ t.kind ≠ .poll ∧ t.origin = some k ∧ t.cueIndex ≠ none) := by
  unfold lostCues
  rw [List.filter_filter]
  congr 1
  funext t
  simp only [discardedAt, ← Bool.decide_and, decide_eq_decide]
  tauto

section
variable {p : Blocks} {t : Transaction}

theorem countDiscarded_cue {k : Nat} (origin : t.origin = some k) (cue : t.cueIndex ≠ none) : countDiscarded t p = addSkipped k p := by
  obtain ⟨ci, at_⟩ := Option.ne_none_iff_exists'.mp cue
  rw [countDiscarded, origin, at_]

theorem countDiscarded_bare (bare : t.origin = none ∨ t.cueIndex = none) : countDiscarded t p = p := by
  unfold countDiscarded
  rcases bare with origin | cue
  · rw [origin]
  · rw [cue]
    cases t.origin <;> rfl

/-- Counting one discarded cue changes the slots alone, and of them the counts of lost cues. -/
theorem countDiscarded_slots (t : Transaction) (p : Blocks) : ∃ slots, countDiscarded t p = { p with runner := { p.runner with slots := slots } } := by
  unfold countDiscarded
  split
  · unfold addSkipped modSlot
    split
    · exact ⟨p.runner.slots, rfl⟩
    · exact ⟨_, rfl⟩
  · exact ⟨p.runner.slots, rfl⟩

theorem slotOf_countDiscarded_cue {k : Nat} {r : SlotRec} (h : slotOf p k = some r) (origin : t.origin = some k) (cue : t.cueIndex ≠ none) :
    slotOf (countDiscarded t p) k = some { r with skipped := moreSkipped r.skipped } := by
  rw [countDiscarded_cue origin cue, addSkipped_of_busy h]
  exact slotOf_write h _

theorem slotOf_countDiscarded_other {k : Nat} (other : ¬ (t.origin = some k ∧ t.cueIndex ≠ none)) : slotOf (countDiscarded t p) k = slotOf p k := by
  by_cases bare : t.origin = none ∨ t.cueIndex = none
  · rw [countDiscarded_bare bare]
  · push Not at bare
    obtain ⟨j, origin⟩ := Option.ne_none_iff_exists'.mp bare.1
    have ne : j ≠ k := fun same => other ⟨same ▸ origin, bare.2⟩
    rw [countDiscarded_cue origin bare.2]
    unfold addSkipped modSlot
    split
    · rfl
    · exact slotOf_setSlot_ne _ _ _ _ ne

theorem countDiscarded_lossless (t : Transaction) (p : Blocks) (k : Nat) :
    (slotOf (countDiscarded t p) k).map SlotRec.lossless = (slotOf p k).map SlotRec.lossless := by
  by_cases own : t.origin = some k ∧ t.cueIndex ≠ none
  · cases h : slotOf p k with
    | some r =>
      rw [slotOf_countDiscarded_cue h own.1 own.2]
      rfl
    | none =>
      rw [countDiscarded_cue own.1 own.2, addSkipped, modSlot_none h, h]
  · rw [slotOf_countDiscarded_other own]

end

/-- Discarded cues counted one after the other: the slots alone change, and each slot's count goes up by its cues, to 65535 at most. -/
theorem foldl_countDiscarded (ts : List Transaction) (p : Blocks) :
    (∃ slots, ts.foldl (fun q t => countDiscarded t q) p = { p with runner := { p.runner with slots := slots } }) ∧
    (∀ k, (slotOf (ts.foldl (fun q t => countDiscarded t q) p) k).map SlotRec.lossless = (slotOf p k).map SlotRec.lossless) ∧
    (∀ k r, slotOf p k = some r → r.skipped ≤ 65535 →
      slotOf (ts.foldl (fun q t => countDiscarded t q) p) k = some { r with skipped := min 65535 (r.skipped + (lostCues k ts).length) }) := by
  induction ts generalizing p with
  | nil =>
    refine ⟨⟨p.runner.slots, rfl⟩, fun k => rfl, fun k r h fits => h.trans ?_⟩
    rw [show min 65535 (r.skipped + (lostCues k []).length) = r.skipped from Nat.min_eq_right fits]
  | cons t ts ih =>
    obtain ⟨⟨slots, shape⟩, lossless, counts⟩ := ih (countDiscarded t p)
    obtain ⟨first, one⟩ := countDiscarded_slots t p
    refine ⟨⟨slots, by rw [List.foldl_cons, shape, one]⟩, fun k => (lossless k).trans (countDiscarded_lossless t p k), fun k r h fits => ?_⟩
    by_cases own : t.origin = some k ∧ t.cueIndex ≠ none
    · have more : moreSkipped r.skipped = min 65535 (r.skipped + 1) := by
        unfold moreSkipped
        split <;> omega
      have one : lostCues k (t :: ts) = t :: lostCues k ts := List.filter_cons_of_pos (by simpa using own)
      have length : (lostCues k (t :: ts)).length = (lostCues k ts).length + 1 := congrArg List.length one
      refine (counts k _ (slotOf_countDiscarded_cue h own.1 own.2) ?_).trans ?_
      · rw [more]
        exact Nat.min_le_left _ _
      · rw [length, more, show min 65535 (min 65535 (r.skipped + 1) + (lostCues k ts).length) = min 65535 (r.skipped + ((lostCues k ts).length + 1)) by omega]
    · have same : lostCues k (t :: ts) = lostCues k ts := List.filter_cons_of_neg (by simpa using own)
      rw [same]
      exact counts k r ((slotOf_countDiscarded_other own).trans h) fits

/-- A node falls: its transactions but for POLLs go from the queue, and then each discarded cue is counted. -/
theorem nodeFalls_eq (n : Nat) (p : Blocks) {q : Blocks} (fallen : q = putNotice (.node .absent n) (setNode n { nodeRecord p n with presence := .absent } p)) :
    nodeFalls n p = (p.bus.queue.filter (discardedAt n)).foldl (fun q t => countDiscarded t q)
      { q with bus := { q.bus with queue := p.bus.queue.filter (fun t => t.node ≠ n ∨ t.kind = .poll) } } := by
  have queue : q.bus.queue = p.bus.queue := by rw [fallen, putNotice_bus, setNode_queue]
  have kept : (fun t => !discardedAt n t) = fun t => decide (t.node ≠ n ∨ t.kind = .poll) := by
    funext t
    by_cases node : t.node = n <;> by_cases poll : t.kind = .poll <;> simp [discardedAt, node, poll]
  rw [← queue, ← kept, nodeFalls, ← fallen]

/-! ### A node that returns (R104, R143) -/

theorem channelsOfNode_eq (p : Blocks) (n : Nat) : channelsOfNode p n = (List.range 128).filter (fun ch => (channelEntry p ch).any (fun e => e.node = n)) := by
  unfold channelsOfNode channelNumbers
  congr 1
  funext ch
  cases channelEntry p ch <;> rfl

theorem channelsOfNode_of_store {p q : Blocks} (store : q.store = p.store) (n : Nat) : channelsOfNode q n = channelsOfNode p n := by
  unfold channelsOfNode channelEntry
  rw [store]

/-- The restoration of a channel of a node that returns, where its top entry's slot is RUNNING or HELD. -/
def restoredTop (q : Blocks) (ch : Nat) : Blocks :=
  match topEntry q ch with
  | none => q
  | some e => if (slotOf q e.slot).any (fun r => r.state = .running ∨ r.state = .held) = true then restoreChannel e.slot ch q else q

theorem restoreReturned_eq (ch : Nat) (q : Blocks) : restoreReturned ch q = restoredTop q ch := by
  unfold restoreReturned restoredTop runsOrHolds
  cases topEntry q ch with
  | none => rfl
  | some e =>
    dsimp only
    cases slotOf q e.slot with
    | none => rfl
    | some r => simp only [Option.any_some, Bool.decide_or]

theorem foldl_restoreReturned_store (chs : List Nat) (p : Blocks) : (chs.foldl (fun q ch => restoreReturned ch q) p).store = p.store := by
  refine (slotsFrame.fold (fun q ch => restoreReturned ch q) (fun q ch => ?_) chs p).store
  unfold restoreReturned
  split
  · exact slotsFrame.refl q
  · split
    · exact slotsFrame.restoreChannel _ _ q
    · exact slotsFrame.refl q

theorem nodeReturns_eq (p : Blocks) (n : Nat) {p1 p2 : Blocks} (returned : p1 = putNotice (.node .present n) (setNode n { nodeRecord p n with presence := .present } p))
    (restored : p2 = (channelsOfNode p n).foldl restoredTop p1) :
    nodeReturns n p = (channelsOfNode p n).foldl (fun q ch => withLaw ch { tget q.level.laws ch with lastSent := none } q) p2 := by
  have first : channelsOfNode p1 n = channelsOfNode p n := channelsOfNode_of_store (by rw [returned, putNotice_store, setNode_store]) n
  have each : (fun q ch => restoreReturned ch q) = restoredTop := funext fun q => funext fun ch => restoreReturned_eq ch q
  have second : channelsOfNode p2 n = channelsOfNode p n := by
    rw [restored, ← each, channelsOfNode_of_store (foldl_restoreReturned_store _ _), first]
  unfold nodeReturns
  simp only [← returned, first, each, ← restored, second]
  rfl

end Sys2Proof.Machine

/-! The obligation about the end of an attempt on the gallery bus (R27, R87, R95 to R98, R100, R102, R104, R184). -/

namespace Sys2Proof.Machine

/-! ### The end of an attempt (R95 to R98) -/

section
variable {p : Blocks} {bytes : List Byte}

theorem attempt_free (free : p.bus.job = none) : nodeReply bytes p = p ∧ replyTimeout p = p ∧ hushSent p = p := by
  simp only [nodeReply, replyTimeout, hushSent, free, and_self]

variable {j : BusJob} (onBus : p.bus.job = some j)
include onBus

theorem attempt_hush (hush : j.tx.kind = .hush) : nodeReply bytes p = p ∧ replyTimeout p = p ∧ hushSent p = freeBus p := by
  simp only [nodeReply, replyTimeout, hushSent, onBus, hush, if_true, and_self]

theorem hushSent_other (awaits : j.tx.kind ≠ .hush) : hushSent p = p := by
  simp only [hushSent, onBus, if_neg awaits]

theorem nodeReply_of_job (awaits : j.tx.kind ≠ .hush) : nodeReply bytes p = replyTo j (parseReply bytes) p := by
  simp only [nodeReply, onBus, if_neg awaits]

end

section
variable {p : Blocks} {j : BusJob} {a : NodeReply}

theorem replyTo_misfit (other : a.node ≠ j.tx.node ∨ j.tx.toggle ≠ some a.toggle) : replyTo j (some a) p = attemptFailed j p := by
  refine if_neg ?_
  simp only [replyFits, Bool.and_eq_true, decide_eq_true_iff, not_and_or]
  exact other

variable (node : a.node = j.tx.node) (toggle : j.tx.toggle = some a.toggle)
include node toggle

theorem replyFits_of : replyFits j.tx a = true := by simp only [replyFits, node, toggle, decide_true, Bool.and_self]

theorem replyTo_nak {why : NakReason} (nak : a.answer = .nak why) : replyTo j (some a) p = freeBus (busRefusal j.tx why p) := by
  refine (if_pos (replyFits_of node toggle)).trans ?_
  rw [nak]

/-- An answer that is no NAK is a success where it is the good answer of the transaction's kind. -/
theorem replyTo_answer (noNak : ∀ why, a.answer ≠ .nak why) :
    replyTo j (some a) p = if j.tx.kind.goodAnswer = some a.answer then freeBus (busSuccess j.tx p) else attemptFailed j p := by
  refine (if_pos (replyFits_of node toggle)).trans ?_
  cases answer : a.answer with
  | nak why => exact absurd answer (noNak why)
  | ack => rfl
  | ready => rfl
  | status => rfl

end

theorem goodAnswer_not_nak (kind : TxKind) (why : NakReason) : kind.goodAnswer ≠ some (.nak why) := by
  cases kind <;> simp [TxKind.goodAnswer]

/-! ### What the three ends write (R96 to R98) -/

section
variable {p : Blocks} {t : Transaction}

theorem busSuccess_eq : busSuccess t p = handSuccess t (decide ((nodeRecord p t.node).presence = .absent)) (setNode t.node
    { nodeRecord p t.node with failures := 0, lastNak := none, toggle := if t.kind = .poll then false else !(nodeRecord p t.node).toggle } p) := by
  simp only [busSuccess, NodeRecord.succeeded, decide_eq_true_iff]

theorem busRefusal_eq (why : NakReason) : busRefusal t why p = afterLoss t (.refused why) (setNode t.node
    { nodeRecord p t.node with
      failures := 0, lastNak := some why, toggle := if t.kind = .poll then (nodeRecord p t.node).toggle else !(nodeRecord p t.node).toggle } p) := by
  simp only [busRefusal, NodeRecord.refusing, decide_eq_true_iff, reportCueLost_eq]

theorem failing_eq (r : NodeRecord) : r.failing = { r with failures := min 3 (r.failures + 1) } := by
  have count : (if r.failures < 3 then r.failures + 1 else 3) = min 3 (r.failures + 1) := by split <;> omega
  rw [NodeRecord.failing, count]

theorem busFailure_eq : busFailure t p =
    if (nodeRecord p t.node).presence = .present ∧ 3 ≤ (nodeRecord p t.node).failures + 1 then
      nodeFalls t.node (afterLoss t .noAnswer (setNode t.node { nodeRecord p t.node with failures := min 3 ((nodeRecord p t.node).failures + 1) } p))
    else afterLoss t .noAnswer (setNode t.node { nodeRecord p t.node with failures := min 3 ((nodeRecord p t.node).failures + 1) } p) := by
  have third : (min 3 ((nodeRecord p t.node).failures + 1) = 3) = (3 ≤ (nodeRecord p t.node).failures + 1) := by
    rw [min_eq_left_iff]
  simp only [busFailure, failing_eq, reportCueLost_eq, third]

theorem attemptFailed_of_lt {j : BusJob} (spent : j.retries < j.tx.attempts) : attemptFailed j p = freeBus (busFailure j.tx p) :=
  if_neg (Nat.not_le.mpr spent)

end

/-- Settles O55. -/
theorem anAttemptEnds : Obligations.AnAttemptEnds := by
  refine ⟨fun s bytes => ?attempts, fun p t => ?hands, fun offset last => ⟨fun _ _ _ _ _ => rfl, fun _ _ => rfl, fun _ _ => rfl, fun _ => rfl, rfl⟩,
    fun p q n low high fallen => ?falls, fun node flags more check => ⟨fun checked => ?checked, parseReply_unchecked⟩, fun bytes bad => parseReply_none bad,
    fun p k ch clip => ⟨readySlot_free, fun r sh left h stored leaves => ?ready⟩, fun p n chs served => ?returns⟩
  case attempts =>
    have reply {q : Blocks} (h : nodeReply bytes s.part = q) : exec (.nodeReply bytes) s = becomes s (finish q) := congrArg (fun q => becomes s (finish q)) h
    have timeout {q : Blocks} (h : replyTimeout s.part = q) : exec .replyTimeout s = becomes s (finish q) := congrArg (fun q => becomes s (finish q)) h
    have sent {q : Blocks} (h : hushSent s.part = q) : exec .hushSent s = becomes s (finish q) := congrArg (fun q => becomes s (finish q)) h
    refine ⟨fun free => ?_, fun j onBus hush => ?_, fun j failed r onBus awaits record again fails => ?_⟩
    · obtain ⟨replies, expires, sends⟩ := attempt_free (bytes := bytes) free
      exact ⟨reply replies, timeout expires, sent sends⟩
    · obtain ⟨replies, expires, sends⟩ := attempt_hush (bytes := bytes) onBus hush
      exact ⟨reply replies, timeout expires, sent sends⟩
    · subst record
      have ends : attemptFailed j s.part = failed := by
        rcases Nat.lt_or_ge j.retries j.tx.attempts with spent | left
        · obtain ⟨q1, q2, lost, falls, rfl⟩ := fails spent
          rw [attemptFailed_of_lt spent, freeBus, busFailure_eq, ← lost, ← falls]
        · rw [attemptFailed_of_le s.part left, again left]
      have read := nodeReply_of_job (bytes := bytes) onBus awaits
      refine ⟨sent (hushSent_other onBus awaits), timeout ((replyTimeout_of_job onBus awaits).trans ends), fun none => reply ?_, fun a parsed => ?_⟩
      · rw [read, none]
        exact ends
      · rw [parsed] at read
        refine ⟨fun other => reply ((read.trans (replyTo_misfit other)).trans ends), fun node toggle => ⟨fun why q nak refused => reply ?_,
          fun answer bad => reply ?_, fun q good success => reply ?_⟩⟩
        · rw [read, replyTo_nak node toggle nak, busRefusal_eq, ← refused, freeBus]
        · have noNak : ∀ why, a.answer ≠ .nak why := fun why nak => by simp [nak] at answer
          rw [read, replyTo_answer node toggle noNak, if_neg bad, ends]
        · have noNak : ∀ why, a.answer ≠ .nak why := fun why nak => goodAnswer_not_nak _ why (good.trans (congrArg some nak))
          rw [read, replyTo_answer node toggle noNak, if_pos good, busSuccess_eq, ← success, freeBus]
  case hands =>
    refine ⟨fun ch uid ci wasAbsent channel owner cue poll trim prepare => ?_, fun wasAbsent bare poll trim prepare => ?_,
      fun k ch clip wasAbsent prepare origin channel => handSuccess_prepare prepare origin channel,
      fun ch gain wasAbsent trim channel => ⟨fun off => ?_, fun law => ?_⟩, handSuccess_poll⟩
    · rw [handSuccess_cue poll trim prepare, updateLast_cue channel owner cue]
    · rw [handSuccess_cue poll trim prepare, updateLast_none bare]
    · rw [handSuccess_trim trim channel, trimAcked_off off]
    · rw [handSuccess_trim trim channel, trimAcked_law law]
  case falls =>
    obtain ⟨⟨slots, shape⟩, lossless, counts⟩ := foldl_countDiscarded (p.bus.queue.filter (discardedAt n))
      { q with bus := { q.bus with queue := p.bus.queue.filter (fun t => t.node ≠ n ∨ t.kind = .poll) } }
    rw [← nodeFalls_eq n p fallen] at shape lossless counts
    have map : q.map = p.map := by rw [fallen, putNotice_map, setNode_map]
    have store : q.store = p.store := by rw [fallen, putNotice_store, setNode_store]
    have job : q.bus.job = p.bus.job := by rw [fallen, putNotice_bus, setNode_job]
    have slot (k : Nat) : slotOf q k = slotOf p k := by rw [fallen, slotOf_putNotice, slotOf, setNode_runner]; rfl
    refine ⟨nodeFalls n p, rfl, ?_, ?_, ?_, ?_, ?_, ?_, fun k => ?_, fun k r range h fits => ?_⟩
    · rw [shape]
    · rw [shape]
    · rw [shape, ← job]
    · rw [shape]
    · rw [shape, ← map]
    · rw [shape, ← store]
    · rw [lossless k, ← slot k]
      rfl
    · rw [counts k r ((slot k).trans h) fits, lostCues_discarded]
  case checked =>
    rw [parseReply_checked checked]
    refine ⟨fun code none => ?_, fun code none => ?_, fun code none => ?_, fun b why code one reason => ?_, fun other long => ?_, fun code bad => ?_⟩
    · rw [none, answerOf_ack code]
      rfl
    · rw [none, answerOf_ready code]
      rfl
    · rw [none, answerOf_status code]
      rfl
    · rw [one, answerOf_nak code, nakReasonOf_eq, reason]
      rfl
    · rw [answerOf_long other long]
      rfl
    · rw [answerOf_badNak code bad]
      rfl
  case ready =>
    subst leaves
    refine ⟨readySlot_ignored h stored, fun priming awaited prepared => ⟨readySlot_waits h stored priming awaited prepared, fun last step alone => ?_,
      fun l last step grouped => ?_⟩⟩
    · rw [readySlot_last h stored priming awaited prepared last step]
      exact slotReady_alone (slotOf_write h (some { r with missing := [] })) alone
    · have ready := slotReady_grouped (slotOf_write h (some { r with missing := [] })) grouped
      rw [readySlot_last h stored priming awaited prepared last step, ready, setSlot_setSlot]
  case returns =>
    have chsIs : chs = channelsOfNode p n := served.trans (channelsOfNode_eq p n).symm
    subst chsIs
    exact ⟨_, _, rfl, rfl, nodeReturns_eq p n rfl rfl⟩

end Sys2Proof.Machine

/-! The obligation about preemption, regain, removal and the pending scan (R32 to R35, R39, R62 to R65, R82). -/

namespace Sys2Proof.Machine

/-! ### Preemption (R62 to R64) -/

section
variable {p : Blocks} {k above : Nat} {cls : ShowClass} {r : SlotRec} {sh : ShowRecord} (h : slotOf p k = some r) (stored : showOf p r.showId = some sh)
include h stored

theorem yields_eq : yields p k = decide (sh.preempt = .yield) := by rw [yields, slotShow_of h stored]

theorem preemptSlot_suspends (stays : sh.preempt ≠ .yield) : preemptSlot above cls k p = suspendSlot above cls k p := by
  rw [preemptSlot, yields_eq h stored, decide_eq_false stays]
  rfl

theorem preemptSlot_yields (yield : sh.preempt = .yield) : preemptSlot above cls k p = finishSlot k .yielded (offerEach .stop cls sh.channels p) := by
  rw [preemptSlot, yields_eq h stored, decide_eq_true yield, if_pos rfl, yieldSlot, slotShow_of h stored]

theorem suspendSlot_primed (priming : r.state = .priming) : suspendSlot above cls k p =
    putNotice (.showSuspended k r.showId above 1 false) (offerEach .pause cls sh.channels (leaveGroup k (setSlot k (some
      { r with state := .suspended, step := 1, primeTimer := none, missing := [], heldWhenSuspended := false }) p))) := by
  simp only [suspendSlot, slotShow_of h stored, priming, if_true, reduceCtorEq, decide_false]

theorem suspendSlot_played (plays : r.state = .running ∨ r.state = .held) : suspendSlot above cls k p =
    putNotice (.showSuspended k r.showId above r.step (decide (r.state = .held))) (offerEach .pause cls sh.channels (leaveGroup k (setSlot k (some
      { r with state := .suspended, heldWhenSuspended := decide (r.state = .held) }) p))) := by
  have other : r.state ≠ .priming := by rcases plays with state | state <;> simp [state]
  simp only [suspendSlot, slotShow_of h stored, if_neg other]

/-! ### Regain (R34, R39, R65) -/

omit stored in
theorem regainIfTop_stays (stays : r.state ≠ .suspended ∨ topEverywhere p k = false) : regainIfTop k p = p := by
  rw [regainIfTop, h]
  refine if_neg ?_
  rintro ⟨suspended, top⟩
  exact stays.elim (· suspended) (ne_false_of_eq_true top)

omit stored in
theorem regainIfTop_regains (suspended : r.state = .suspended) (top : topEverywhere p k = true) : regainIfTop k p = regainSlot k p := by
  rw [regainIfTop, h]
  exact if_pos ⟨suspended, top⟩

theorem regainSlot_resumes (played : r.step = 3) (resume : sh.preempt = .resume) : regainSlot k p = sh.channels.foldl (fun q ch => restoreChannel k ch q)
    (putNotice (.showResumed k r.showId r.late r.heldWhenSuspended false) (setSlot k (some
      { r with state := if r.heldWhenSuspended then .held else .running, group := none, began := true }) p)) := by
  rw [regainSlot, slotShow_of h stored]
  exact if_pos ⟨played, resume⟩

omit h stored in
theorem setSlot_putNotice_setSlot (n : Notice) (v w : Option SlotRec) : setSlot k w (putNotice n (setSlot k v p)) = setSlot k w (putNotice n p) := by
  have same : putNotice n (setSlot k v p) = setSlot k v (putNotice n p) := by
    unfold putNotice
    split
    next room => exact (if_pos room).symm ▸ rfl
    next full => exact (if_neg full).symm ▸ rfl
  rw [same, setSlot_setSlot]

theorem primeAgain_noticed (n : Notice) (late : Bool) : primeAgain k (putNotice n (setSlot k (some { r with late := late }) p)) =
    enterPriming k (setSlot k (some
      { r with
        state := .priming, step := 1, clock := 0, pointer := 0, deadline := none, heldWhenSuspended := false
        repeats := if sh.plays = 0 then none else some (sh.plays - 1)
        group := none, late := late }) (putNotice n p)) := by
  have busy : slotOf (putNotice n (setSlot k (some { r with late := late }) p)) k = some { r with late := late } :=
    (slotOf_putNotice _ _ _).trans (slotOf_write h _)
  have show_ : showOf (putNotice n (setSlot k (some { r with late := late }) p)) r.showId = some sh := by
    unfold showOf
    rw [putNotice_store]
    exact stored
  rw [primeAgain, slotShow_of busy show_, ← setSlot_putNotice_setSlot n (some { r with late := late })]
  rfl

theorem regainSlot_primes (anew : r.step ≠ 3 ∨ sh.preempt ≠ .resume) : regainSlot k p =
    primeAgain k (putNotice (.showResumed k r.showId (r.late || decide (r.step = 3)) false true)
      (setSlot k (some { r with late := r.late || decide (r.step = 3) }) p)) := by
  rw [regainSlot, slotShow_of h stored]
  refine if_neg ?_
  rintro ⟨played, resume⟩
  exact anew.elim (· played) (· resume)

omit stored in
theorem restoreChannel_none {ch : Nat} (none : ∀ e, entryOn p ch k = some e → e.last = none) : restoreChannel k ch p = p := by
  rw [restoreChannel, h]
  cases entry : entryOn p ch k with
  | none => rfl
  | some e => simp only [none e entry]

omit stored in
theorem restoreChannel_last {ch : Nat} {e : StackEntry} {last : LastState} (entry : entryOn p ch k = some e) (was : e.last = some last) :
    restoreChannel k ch p = offerChannel ch (restorationOf last r.clock) r.cls (some k) none none p := by
  simp only [restoreChannel, h, entry, was]

end

theorem topEverywhere_iff (p : Blocks) (k : Nat) : topEverywhere p k = true ↔ ∃ r sh, slotOf p k = some r ∧ showOf p r.showId = some sh ∧
    ∀ ch ∈ sh.channels, ∃ e, topEntry p ch = some e ∧ e.slot = k := by
  unfold topEverywhere
  constructor
  · intro top
    cases shows : slotShow p k with
    | none => rw [shows] at top; exact nomatch top
    | some both =>
      obtain ⟨r, sh⟩ := both
      obtain ⟨busy, stored⟩ := slotShow_some shows
      rw [shows] at top
      refine ⟨r, sh, busy, stored, fun ch listed => ?_⟩
      have at_ := List.all_eq_true.mp top ch listed
      cases entry : topEntry p ch with
      | none => rw [entry] at at_; exact nomatch at_
      | some e =>
        rw [entry] at at_
        exact ⟨e, rfl, of_decide_eq_true at_⟩
  · rintro ⟨r, sh, busy, stored, tops⟩
    rw [slotShow_of busy stored]
    refine List.all_eq_true.mpr fun ch listed => ?_
    obtain ⟨e, entry, own⟩ := tops ch listed
    rw [entry]
    exact decide_eq_true own

/-! ### Removal (R32, R33) -/

/-- The exposed channels stand in ascending order. -/
theorem exposedBy_ascending (p : Blocks) (ks : List Nat) : ((exposedBy p ks).map (fun c => c.1)).Pairwise (· < ·) := by
  refine List.pairwise_map.mpr (List.Pairwise.filterMap _ (fun a b lower x hx y hy => ?_) List.pairwise_lt_range)
  have own (ch : Nat) (c : Nat × ShowClass) (hc : (match topEntry p ch with
      | none => none
      | some e => if ks.contains e.slot then some (ch, e.cls) else none) = some c) : c.1 = ch := by
    cases entry : topEntry p ch with
    | none => rw [entry] at hc; exact nomatch hc
    | some e =>
      rw [entry] at hc
      obtain ⟨_, same⟩ := Option.ite_none_right_eq_some.mp hc
      cases same
      rfl
  rw [own a x hx, own b y hy]
  exact lower

theorem takeOff_eq (ks : List Nat) (p : Blocks) : takeOff ks p =
    { p with map := { p.map with owners := tmap (fun es => es.filter (fun e => e.slot ∉ ks)) p.map.owners } } := by
  have kept : (fun e : StackEntry => !ks.contains e.slot) = fun e => decide (e.slot ∉ ks) := by
    funext e
    simp
  rw [takeOff, kept]

theorem exposeChannel_eq (ch : Nat) (cls : ShowClass) (q : Blocks) : exposeChannel ch cls q =
    if (topEntry q ch).any (fun e => topEverywhere q e.slot) = true then q else offerChannel ch .stop cls none none none q := by
  unfold exposeChannel
  cases topEntry q ch <;> rfl

theorem removal_exposes {rescan : Blocks → Blocks} {ks : List Nat} {p : Blocks} (held : ∃ ch < 128, ∃ e ∈ ownersOf p ch, e.slot ∈ ks) :
    removal rescan ks p = rescan ((List.range 16).foldl (fun q k => regainIfTop k q)
      ((exposedBy p ks).foldl (fun q c => exposeChannel c.1 c.2 q) (settleGroups (takeOff ks p)))) :=
  if_pos ((holdEntries_iff p ks).mpr held)

theorem removal_of_none {rescan : Blocks → Blocks} {ks : List Nat} {p : Blocks} (none : ∀ ch < 128, ∀ e ∈ ownersOf p ch, e.slot ∉ ks) :
    removal rescan ks p = settleGroups p := by
  refine if_neg fun held => ?_
  obtain ⟨ch, range, e, entry, own⟩ := (holdEntries_iff p ks).mp held
  exact none ch range e entry own

/-! ### Claims of waiting slots (R28, R35) -/

theorem claimable_iff_exists (p : Blocks) (k : Nat) : claimable p k = true ↔ ∃ r sh, slotOf p k = some r ∧ showOf p r.showId = some sh ∧
    ∀ ch ∈ sh.channels, ∀ e, topEntry p ch = some e → e.cls.rank < r.cls.rank := by
  constructor
  · intro claims
    cases shows : slotShow p k with
    | none => rw [claimable, shows] at claims; exact nomatch claims
    | some both =>
      obtain ⟨busy, stored⟩ := slotShow_some (r := both.1) (sh := both.2) shows
      exact ⟨both.1, both.2, busy, stored, (claimable_iff busy stored).mp claims⟩
  · rintro ⟨r, sh, busy, stored, lower⟩
    exact (claimable_iff busy stored).mpr lower

/-- Settles O56. -/
theorem preemptionAndRegain : Obligations.PreemptionAndRegain := by
  refine ⟨fun p k above cls r sh h stored => ⟨fun r' stays played primed acts => ?suspends, fun yield => ⟨_, rfl, preemptSlot_yields h stored yield⟩,
      regainIfTop_stays h, fun suspended top => ⟨fun played resume => ?resumes, fun late anew written => ?primes⟩, fun ch => restoreChannel_none h,
      fun ch e last entry was => ?restores⟩,
    fun p ks => ⟨fun none rescan => removal_of_none none, fun held => ?removes⟩, topEverywhere_iff, fun p claims meaning => ?scans⟩
  case suspends =>
    rw [preemptSlot_suspends h stored stays]
    by_cases priming : r.state = .priming
    · rw [suspendSlot_primed h stored priming, primed priming]
      simp only [priming, reduceCtorEq, decide_false]
      rfl
    · have plays : r.state = .running ∨ r.state = .held := acts.elim Or.inl (·.elim Or.inr (absurd · priming))
      rw [suspendSlot_played h stored plays, played plays]
      rfl
  case resumes => rw [regainIfTop_regains h suspended top, regainSlot_resumes h stored played resume]
  case primes => rw [regainIfTop_regains h suspended top, regainSlot_primes h stored anew, ← written, primeAgain_noticed h stored]
  case restores =>
    rw [restoreChannel_last h entry was]
    cases last <;> rfl
  case removes =>
    refine ⟨exposedBy p ks, _, _, _, exposedBy_ascending p ks, mem_exposedBy p ks, rfl, rfl, rfl, fun rescan => ?_⟩
    rw [removal_exposes held, takeOff_eq]
    simp only [exposeChannel_eq]
  case scans =>
    have claims_iff (k : Nat) : claims k ↔ claimable p k = true := (meaning k).trans (claimable_iff_exists p k).symm
    refine ⟨fun none => pendingScan_still fun k waits => ?_, fun older k younger r order fails succeeds busy => ?_⟩
    · exact Bool.eq_false_iff.mpr fun claim => none k waits ((claims_iff k).mpr claim)
    · have found : p.map.waitOrder.find? (fun k => claimable p k) = some k := by
        refine List.find?_eq_some_iff_append.mpr ⟨(claims_iff k).mp succeeds, older, younger, order, fun j before => ?_⟩
        exact Bool.not_eq_true' _ ▸ Bool.eq_false_iff.mpr fun claim => fails j before ((claims_iff j).mpr claim)
      exact pendingScan_grants found busy

end Sys2Proof.Machine
